-- ==== Sys2Proof/Word.lean ====
section
/-! DEFINITION. The value domains of the rules (spec/00_scope.md R8, R9, R11): bytes, bits, bit buffers, the
Reading as an exact number of sixteenths, and the answer of the transport. -/

namespace Sys2Proof

/-- `Byte` of R11: an unsigned integer 0 to 255; bit 7 is the most significant (R8). -/
abbrev Byte := BitVec 8

/-- `Bit` of R11: one value in {0, 1}; false is 0 and true is 1. -/
abbrev Bit := Bool

/-- A bit buffer (R9): the finite sequence of its cells, offset 0 first. N is the length of the list. -/
abbrev Cells := List Bit

/-- `Reading` of R11: the exact rational number `sixteenths / 16`. The domain asks sixteenths <= 65535
(R111); that is no part of the type, it is proved of every Reading the block returns. -/
structure Reading where
  sixteenths : Nat
deriving DecidableEq, Repr, Inhabited

/-- The number a Reading is (R11: "the rational numbers W / 16"). -/
def Reading.toRat (r : Reading) : Rat := (r.sixteenths : Rat) / 16

/-- What the transport answers to READTXN (spec/44_transport_read.md R151): a finite sequence of bytes and
the flag success. No law ties the two. -/
structure TxnAnswer where
  bytes   : List Byte
  success : Bool
deriving DecidableEq, Repr, Inhabited

end Sys2Proof
end

