-- ==== Sys2Proof/Config.lean ====
section
/-! DEFINITION. The parameters of spec/00_scope.md R7 that a rule reads, and the free values: the answers of
a transport under no law (spec/44_transport_read.md R150, R151). -/

namespace Sys2Proof

/-- `FRAME_BYTES`: bytes in one RawSample (R7). -/
def Config.frameBytes : Nat := 3

/-- `MIN_FIELD_LEN`: the smallest `length` in contract (R7, R45). -/
def Config.minFieldLen : Nat := 1

/-- `MAX_FIELD_LEN`: the largest `length` in contract (R7, R45). -/
def Config.maxFieldLen : Nat := 32

/-- `BYTE_WIDTH`, also `CONFIG_WIDTH`: cells of the image of a byte (R7, R47). -/
def Config.byteWidth : Nat := 8

/-- The optional switch of spec/43_config_encoder.md R141 ("a named configuration switch, off by default"):
whether ENCODE packs the value 4 of X8 into two bits, where it is truncated to 0. It is off here. -/
def Config.encTruncatesX8 : Bool := false

/-- The answer of the transport to INIT where State lists none: under no law (R150). A free value. -/
opaque Config.freeInit : Nat → Bool

/-- The answer of the transport to READTXN where State lists none: under no law (R151). A free value. -/
opaque Config.freeTxn : Nat → TxnAnswer

end Sys2Proof
end

