-- ==== Sys2Proof/Syntax.lean ====
section
/-! DEFINITION. The operations and their operands: one constructor of Instr per row of
spec/opcode_table.json (spec/30_encoding.md R60, R73), and the Request by which a caller presents operands
to an operation's ports. -/

namespace Sys2Proof

/-- Conversion mode (R65): Continuous = 0, Single = 1. -/
inductive Mode where
  | continuous
  | single
deriving DecidableEq, Repr

/-- Data rate (R66): ordinals 0, 1, 2, 3. -/
inductive DataRate where
  | sps15
  | sps30
  | sps60
  | sps240
deriving DecidableEq, Repr

/-- Gain (R68): a tagged enumeration with an explicit Unknown, never a raw integer cast. -/
inductive GainAmp where
  | x1
  | x2
  | x4
  | x8
  | unknown
deriving DecidableEq, Repr

/-- `Configuration` of R11 and R27: a value of four fields. -/
structure Configuration where
  dataReady : Bool
  mode      : Mode
  dataRate  : DataRate
  gainAmp   : GainAmp
deriving DecidableEq, Repr

/-- The operand `buf` of EXTRACT and PACK. R74 writes a buffer as a list of its cells or by a caller's
name: the cells presented on the port, or the number of one of the caller's buffers in State (log entry 6). -/
inductive BufArg where
  | lit    (cells : Cells)
  | caller (k : Nat)
deriving DecidableEq, Repr

/-- An invocation with its operands: "a constructor of a request type carrying the operands" (R60, D3).
The bus address of INIT, READTXN and READ is the device handle's (R29), held in State.

The last twelve are the case rows of R73. Such a row covers the configuration bytes with
`(config_byte & mask) = match`; its operand is the bits the mask leaves free, so a byte of another case has
no term (log entry 11). -/
inductive Instr where
  | extract (buf : BufArg) (startOffset length : Nat)
  | pack (value : Nat) (buf : BufArg) (startOffset length : Nat)
  | extractField (byte : Byte) (startBit width : Nat)
  | packField (value startBit width : Nat)
  | scale (high low : Byte)
  | drdy (config : Byte)
  | mode (config : Byte)
  | rate (config : Byte)
  | gain (config : Byte)
  | gainMap (code : Nat)
  | rsvd (config : Byte)
  | decode (high low config : Byte)
  | encode (cfg : Configuration)
  | init
  | readTxn
  | read
  | drdyReady (low : BitVec 7)
  | drdyNotReady (low : BitVec 7)
  | modeContinuous (high : BitVec 3) (low : BitVec 4)
  | modeSingle (high : BitVec 3) (low : BitVec 4)
  | rateSps15 (high : BitVec 4) (low : BitVec 2)
  | rateSps30 (high : BitVec 4) (low : BitVec 2)
  | rateSps60 (high : BitVec 4) (low : BitVec 2)
  | rateSps240 (high : BitVec 4) (low : BitVec 2)
  | gainX1 (high : BitVec 6)
  | gainX2 (high : BitVec 6)
  | gainX4 (high : BitVec 6)
  | gainUnknown (high : BitVec 6)
deriving DecidableEq, Repr

/-- The unit a request addresses. R60: "There is no opcode field anywhere: no word selects an operation.
Each operation is a separate combinational unit with its own ports." So the unit is a name, not a number. -/
inductive Op where
  | extract | pack | extractField | packField | scale | drdy | mode | rate | gain | gainMap | rsvd | decode
  | encode | init | readTxn | read
  | drdyReady | drdyNotReady | modeContinuous | modeSingle | rateSps15 | rateSps30 | rateSps60 | rateSps240
  | gainX1 | gainX2 | gainX4 | gainUnknown
deriving DecidableEq, Repr

/-- What a caller presents on one operand port: a byte, a natural number, the cells of a buffer, or the
number of one of its own buffers. -/
inductive PortVal where
  | byte   (b : Byte)
  | nat    (n : Nat)
  | cells  (c : Cells)
  | buffer (k : Nat)
deriving DecidableEq, Repr

/-- A presented invocation: the unit and its operand ports in the order of the operation's signature (R74). -/
structure Request where
  op    : Op
  ports : List PortVal
deriving DecidableEq, Repr

/-- Why a request is no invocation of its unit. -/
inductive DecodeError where
  /-- An operand port is missing, there is one too many, or one carries a value of another kind. -/
  | wrongPorts
  /-- A buffer of no cells was presented: BUF_LEN is at least 1 (R7). -/
  | emptyBuffer
  /-- A port code does not fit its port (R70). -/
  | portTooWide
  /-- The byte does not match the case row's pattern (R73). -/
  | caseMismatch
deriving DecidableEq, Repr

end Sys2Proof
end

