-- ==== Sys2Proof/WellFormed.lean ====
section
/-! DEFINITION. Which invocations are well formed: the part of an operation's contract that its operands
alone decide (spec/20_memory.md R44, R45; spec/40_bitfield_codec.md R90, R91, R94, R95). The bounds of one
of the caller's own buffers depend on State and are checked by the operation. -/

namespace Sys2Proof

/-- `length` in [1, 32] (R45). -/
def lengthOk (length : Nat) : Bool :=
  decide (Config.minFieldLen ≤ length) && decide (length ≤ Config.maxFieldLen)

/-- A presented buffer has at least one cell (R7, BUF_LEN) and holds the whole field (R43). -/
def BufArg.holds (startOffset length : Nat) : BufArg → Bool
  | .lit cells => !cells.isEmpty && decide (startOffset + length ≤ cells.length)
  | .caller _ => true

/-- The range of EXTRACTFIELD and PACKFIELD: startBit 0 to 7, width 1 to 8, startBit + width <= 8 (R94, R95). -/
def fieldOk (startBit width : Nat) : Bool :=
  decide (startBit ≤ 7) && decide (1 ≤ width) && decide (width ≤ 8) && decide (startBit + width ≤ 8)

/-- The well-formed invocations. Every operation on bytes alone is total (R127), so has no condition. -/
def Instr.wf : Instr → Bool
  | .extract buf off len => lengthOk len && buf.holds off len
  | .pack _ buf off len => lengthOk len && buf.holds off len
  | .extractField _ startBit width => fieldOk startBit width
  | .packField _ startBit width => fieldOk startBit width
  | .scale _ _ => true
  | .drdy _ => true
  | .mode _ => true
  | .rate _ => true
  | .gain _ => true
  | .gainMap _ => true
  | .rsvd _ => true
  | .decode _ _ _ => true
  | .encode _ => true
  | .init => true
  | .readTxn => true
  | .read => true
  | .drdyReady _ => true
  | .drdyNotReady _ => true
  | .modeContinuous _ _ => true
  | .modeSingle _ _ => true
  | .rateSps15 _ _ => true
  | .rateSps30 _ _ => true
  | .rateSps60 _ _ => true
  | .rateSps240 _ _ => true
  | .gainX1 _ => true
  | .gainX2 _ => true
  | .gainX4 _ => true
  | .gainUnknown _ => true

end Sys2Proof
end

