-- ==== Sys2Proof/Decode.lean ====
section
/-! DEFINITION. From a request to an invocation and back. `decode` reads the operand ports of the unit a
request names, rejecting by name what is no operand; `encode` presents a given invocation. The case rows'
masks and matches are spec/opcode_table.json's (spec/30_encoding.md R73), the port codes of a Configuration
are R70's. `tableRequest` is the host's probe only (log entry 4). -/

namespace Sys2Proof

/-- The mask and match of one case row over config_byte, and the unit it stands for (R73). -/
structure CaseRow where
  op      : Op
  mask    : Byte
  pattern : Byte
deriving DecidableEq, Repr

/-- `(config_byte & mask) = match` (R73). -/
def CaseRow.selects (r : CaseRow) (c : Byte) : Bool := c &&& r.mask == r.pattern

/-- The case rows of the ready-low bit, mask 0x80 (R64). -/
def drdyRows : List CaseRow := [⟨.drdyReady, 0x80, 0x00⟩, ⟨.drdyNotReady, 0x80, 0x80⟩]

/-- The case rows of the mode bit, mask 0x10 (R65). -/
def modeRows : List CaseRow := [⟨.modeContinuous, 0x10, 0x00⟩, ⟨.modeSingle, 0x10, 0x10⟩]

/-- The case rows of the data rate, mask 0x0C (R66). -/
def rateRows : List CaseRow :=
  [⟨.rateSps15, 0x0C, 0x00⟩, ⟨.rateSps30, 0x0C, 0x04⟩, ⟨.rateSps60, 0x0C, 0x08⟩, ⟨.rateSps240, 0x0C, 0x0C⟩]

/-- The case rows of the gain, mask 0x03 (R67). -/
def gainRows : List CaseRow :=
  [⟨.gainX1, 0x03, 0x00⟩, ⟨.gainX2, 0x03, 0x01⟩, ⟨.gainX4, 0x03, 0x02⟩, ⟨.gainUnknown, 0x03, 0x03⟩]

/-! Port codes of a Configuration on ENCODE's input ports and on the output ports (R70). -/

/-- Port `data_ready`: 1 is ready, positive logic (R70). -/
def dataReadyPort (b : Bool) : Nat := if b then 1 else 0

/-- Port `mode`: the enumeration's value (R65, R70). -/
def modePort : Mode → Nat
  | .continuous => 0
  | .single => 1

/-- Port `rate_ord`: the ordinal (R66, R70). -/
def rateOrd : DataRate → Nat
  | .sps15 => 0
  | .sps30 => 1
  | .sps60 => 2
  | .sps240 => 3

/-- Port `gain_code`: the underlying value, and 7 for Unknown (R70). -/
def gainCode : GainAmp → Nat
  | .x1 => 0
  | .x2 => 1
  | .x4 => 2
  | .x8 => 4
  | .unknown => 7

/-- `dataReady` read from its 1-bit port. -/
def dataReadyOfPort : Nat → Except DecodeError Bool
  | 0 => .ok false
  | 1 => .ok true
  | _ => .error .portTooWide

/-- `mode` read from its 1-bit port. -/
def modeOfPort : Nat → Except DecodeError Mode
  | 0 => .ok .continuous
  | 1 => .ok .single
  | _ => .error .portTooWide

/-- `dataRate` read from its 2-bit port. -/
def rateOfPort : Nat → Except DecodeError DataRate
  | 0 => .ok .sps15
  | 1 => .ok .sps30
  | 2 => .ok .sps60
  | 3 => .ok .sps240
  | _ => .error .portTooWide

/-- `gainAmp` read from its 3-bit port: codes 3, 5 and 6 "are treated as Unknown" (R70). -/
def gainOfPort : Nat → Except DecodeError GainAmp
  | 0 => .ok .x1
  | 1 => .ok .x2
  | 2 => .ok .x4
  | 4 => .ok .x8
  | 3 => .ok .unknown
  | 5 => .ok .unknown
  | 6 => .ok .unknown
  | 7 => .ok .unknown
  | _ => .error .portTooWide

/-- The Configuration on ENCODE's four input ports (D2, R70). -/
def cfgOfPorts (ready mode rate gain : Nat) : Except DecodeError Configuration := do
  let r ← dataReadyOfPort ready
  let m ← modeOfPort mode
  let d ← rateOfPort rate
  let g ← gainOfPort gain
  .ok ⟨r, m, d, g⟩

/-- The operand `buf` (R74): presented cells, at least one (R7), or a buffer of the caller. -/
def bufOfPort : PortVal → Except DecodeError BufArg
  | .cells [] => .error .emptyBuffer
  | .cells (b :: cs) => .ok (.lit (b :: cs))
  | .buffer k => .ok (.caller k)
  | .byte _ => .error .wrongPorts
  | .nat _ => .error .wrongPorts

/-- A unit with the one operand `config_byte`. -/
def onByte (ports : List PortVal) (f : Byte → Except DecodeError Instr) : Except DecodeError Instr :=
  match ports with
  | [.byte c] => f c
  | _ => .error .wrongPorts

/-- A case row on a presented byte: only the bytes its mask and match select (R73). -/
def onCase (mask pattern : Byte) (ports : List PortVal) (f : Byte → Instr) : Except DecodeError Instr :=
  onByte ports fun c => if c &&& mask == pattern then .ok (f c) else .error .caseMismatch

/-- A unit with no operand port of its own: the bus address is the device handle's (R29). -/
def onNone (ports : List PortVal) (i : Instr) : Except DecodeError Instr :=
  match ports with
  | [] => .ok i
  | _ => .error .wrongPorts

/-- The invocation a request presents (R60), or why it presents none. -/
def decode (r : Request) : Except DecodeError Instr :=
  match r.op with
  | .extract =>
    match r.ports with
    | [b, .nat off, .nat len] => (bufOfPort b).map fun b => .extract b off len
    | _ => .error .wrongPorts
  | .pack =>
    match r.ports with
    | [.nat v, b, .nat off, .nat len] => (bufOfPort b).map fun b => .pack v b off len
    | _ => .error .wrongPorts
  | .extractField =>
    match r.ports with
    | [.byte c, .nat startBit, .nat width] => .ok (.extractField c startBit width)
    | _ => .error .wrongPorts
  | .packField =>
    match r.ports with
    | [.nat v, .nat startBit, .nat width] => .ok (.packField v startBit width)
    | _ => .error .wrongPorts
  | .scale =>
    match r.ports with
    | [.byte h, .byte l] => .ok (.scale h l)
    | _ => .error .wrongPorts
  | .drdy => onByte r.ports fun c => .ok (.drdy c)
  | .mode => onByte r.ports fun c => .ok (.mode c)
  | .rate => onByte r.ports fun c => .ok (.rate c)
  | .gain => onByte r.ports fun c => .ok (.gain c)
  | .gainMap =>
    match r.ports with
    | [.nat code] => .ok (.gainMap code)
    | _ => .error .wrongPorts
  | .rsvd => onByte r.ports fun c => .ok (.rsvd c)
  | .decode =>
    match r.ports with
    | [.byte h, .byte l, .byte c] => .ok (.decode h l c)
    | _ => .error .wrongPorts
  | .encode =>
    match r.ports with
    | [.nat ready, .nat mode, .nat rate, .nat gain] => (cfgOfPorts ready mode rate gain).map .encode
    | _ => .error .wrongPorts
  | .init => onNone r.ports .init
  | .readTxn => onNone r.ports .readTxn
  | .read => onNone r.ports .read
  | .drdyReady => onCase 0x80 0x00 r.ports fun c => .drdyReady (c.extractLsb' 0 7)
  | .drdyNotReady => onCase 0x80 0x80 r.ports fun c => .drdyNotReady (c.extractLsb' 0 7)
  | .modeContinuous => onCase 0x10 0x00 r.ports fun c => .modeContinuous (c.extractLsb' 5 3) (c.extractLsb' 0 4)
  | .modeSingle => onCase 0x10 0x10 r.ports fun c => .modeSingle (c.extractLsb' 5 3) (c.extractLsb' 0 4)
  | .rateSps15 => onCase 0x0C 0x00 r.ports fun c => .rateSps15 (c.extractLsb' 4 4) (c.extractLsb' 0 2)
  | .rateSps30 => onCase 0x0C 0x04 r.ports fun c => .rateSps30 (c.extractLsb' 4 4) (c.extractLsb' 0 2)
  | .rateSps60 => onCase 0x0C 0x08 r.ports fun c => .rateSps60 (c.extractLsb' 4 4) (c.extractLsb' 0 2)
  | .rateSps240 => onCase 0x0C 0x0C r.ports fun c => .rateSps240 (c.extractLsb' 4 4) (c.extractLsb' 0 2)
  | .gainX1 => onCase 0x03 0x00 r.ports fun c => .gainX1 (c.extractLsb' 2 6)
  | .gainX2 => onCase 0x03 0x01 r.ports fun c => .gainX2 (c.extractLsb' 2 6)
  | .gainX4 => onCase 0x03 0x02 r.ports fun c => .gainX4 (c.extractLsb' 2 6)
  | .gainUnknown => onCase 0x03 0x03 r.ports fun c => .gainUnknown (c.extractLsb' 2 6)

/-! The encoder. -/

/-- A buffer operand on its port. -/
def portOfBuf : BufArg → PortVal
  | .lit cells => .cells cells
  | .caller k => .buffer k

/-- A Configuration on ENCODE's input ports (D2, R70). -/
def portsOfCfg (c : Configuration) : List PortVal :=
  [.nat (dataReadyPort c.dataReady), .nat (modePort c.mode), .nat (rateOrd c.dataRate), .nat (gainCode c.gainAmp)]

/-- The configuration byte of a DRDY case row: `r` and the seven bits below it (R62, R64). -/
def readyByte (r : BitVec 1) (low : BitVec 7) : Byte := r ++ low

/-- The configuration byte of a MODE case row: bits 7..5, `m`, bits 3..0 (R62, R65). -/
def modeByte (high : BitVec 3) (m : BitVec 1) (low : BitVec 4) : Byte := high ++ m ++ low

/-- The configuration byte of a RATE case row: bits 7..4, `dd`, bits 1..0 (R62, R66). -/
def rateByte (high : BitVec 4) (d : BitVec 2) (low : BitVec 2) : Byte := high ++ d ++ low

/-- The configuration byte of a GAIN case row: bits 7..2, `gg` (R62, R67). -/
def gainByte (high : BitVec 6) (g : BitVec 2) : Byte := high ++ g

/-- The request that presents a given invocation. -/
def encode : Instr → Request
  | .extract buf off len => ⟨.extract, [portOfBuf buf, .nat off, .nat len]⟩
  | .pack v buf off len => ⟨.pack, [.nat v, portOfBuf buf, .nat off, .nat len]⟩
  | .extractField c startBit width => ⟨.extractField, [.byte c, .nat startBit, .nat width]⟩
  | .packField v startBit width => ⟨.packField, [.nat v, .nat startBit, .nat width]⟩
  | .scale h l => ⟨.scale, [.byte h, .byte l]⟩
  | .drdy c => ⟨.drdy, [.byte c]⟩
  | .mode c => ⟨.mode, [.byte c]⟩
  | .rate c => ⟨.rate, [.byte c]⟩
  | .gain c => ⟨.gain, [.byte c]⟩
  | .gainMap code => ⟨.gainMap, [.nat code]⟩
  | .rsvd c => ⟨.rsvd, [.byte c]⟩
  | .decode h l c => ⟨.decode, [.byte h, .byte l, .byte c]⟩
  | .encode cfg => ⟨.encode, portsOfCfg cfg⟩
  | .init => ⟨.init, []⟩
  | .readTxn => ⟨.readTxn, []⟩
  | .read => ⟨.read, []⟩
  | .drdyReady low => ⟨.drdyReady, [.byte (readyByte 0 low)]⟩
  | .drdyNotReady low => ⟨.drdyNotReady, [.byte (readyByte 1 low)]⟩
  | .modeContinuous high low => ⟨.modeContinuous, [.byte (modeByte high 0 low)]⟩
  | .modeSingle high low => ⟨.modeSingle, [.byte (modeByte high 1 low)]⟩
  | .rateSps15 high low => ⟨.rateSps15, [.byte (rateByte high 0 low)]⟩
  | .rateSps30 high low => ⟨.rateSps30, [.byte (rateByte high 1 low)]⟩
  | .rateSps60 high low => ⟨.rateSps60, [.byte (rateByte high 2 low)]⟩
  | .rateSps240 high low => ⟨.rateSps240, [.byte (rateByte high 3 low)]⟩
  | .gainX1 high => ⟨.gainX1, [.byte (gainByte high 0)]⟩
  | .gainX2 high => ⟨.gainX2, [.byte (gainByte high 1)]⟩
  | .gainX4 high => ⟨.gainX4, [.byte (gainByte high 2)]⟩
  | .gainUnknown high => ⟨.gainUnknown, [.byte (gainByte high 3)]⟩

/-! The host's probe (log entry 4). It hands over a bare word of the opcode table, and no word of this
hardware selects an operation (R60). So the unit such a word is presented to is the model's choice; `decode`
and `step` never use it. -/

/-- Byte k of a word, byte 0 the least significant. -/
def wordByte (w k : Nat) : Byte := BitVec.ofNat 8 (w >>> (8 * k))

/-- The one-byte words that are the match of a case row and not 0. -/
def caseWords : List (Nat × Op) :=
  [(0x80, .drdyNotReady), (0x10, .modeSingle), (0x04, .rateSps30), (0x08, .rateSps60), (0x0C, .rateSps240),
   (0x01, .gainX2), (0x02, .gainX4), (0x03, .gainUnknown)]

/-- The four case rows to which the reader's table gives bit 10 or 11: it took the binary code in the row's
text for a bit number. The spec's words are right (98_reader.md), so the instruction is the low byte. -/
def misreadWords : List (Nat × Op) :=
  [(0x0008, .rateSps60), (0x0408, .rateSps60), (0x000C, .rateSps240), (0x080C, .rateSps240),
   (0x0002, .gainX4), (0x0402, .gainX4), (0x0003, .gainUnknown), (0x0803, .gainUnknown)]

/-- A one-byte table word: the case row whose match it is; else ENCODE of the Configuration whose byte
`r00mddgg` it is (R140); else DRDY. -/
def tableByte (w : Nat) : Request :=
  match caseWords.lookup w with
  | some op => ⟨op, [.byte (wordByte w 0)]⟩
  | none =>
    if w &&& 0x60 == 0 && w &&& 3 != 3 then
      ⟨.encode, [.nat (1 - (w >>> 7 &&& 1)), .nat (w >>> 4 &&& 1), .nat (w >>> 2 &&& 3), .nat (w &&& 3)]⟩
    else ⟨.drdy, [.byte (wordByte w 0)]⟩

/-- The request by which a bare table word is presented: 24 bits to DECODE and 16 to SCALE, frame bit 23
(word bit 15) the top bit of high_byte (R61); 8 bits as `tableByte` says. No other width is a word of the table. -/
def tableRequest (nbits w : Nat) : Request :=
  match nbits with
  | 8 => tableByte (w % 256)
  | 16 =>
    match misreadWords.lookup w with
    | some op => ⟨op, [.byte (wordByte w 0)]⟩
    | none => ⟨.scale, [.byte (wordByte w 1), .byte (wordByte w 0)]⟩
  | 24 => ⟨.decode, [.byte (wordByte w 2), .byte (wordByte w 1), .byte (wordByte w 0)]⟩
  | _ => ⟨.decode, []⟩

/-- The invocation `decode` reads from a bare table word (none where it refuses). -/
def decodeTableWord (nbits w : Nat) : Option Instr :=
  match decode (tableRequest nbits w) with
  | .ok i => some i
  | .error _ => none

end Sys2Proof
end

