-- ==== Sys2Proof/Machine/State.lean ====
section
/-! DEFINITION. State, and the reasons a step can stop. The block itself retains nothing (spec/10_state.md
R20): State is what stands around it, that is the caller's waiting invocations and buffers, the device
handle, the transport's coming answers, and what the latest invocation returned (log entry 1). -/

namespace Sys2Proof.Machine

/-- The caller's bit buffers by number (spec/20_memory.md R40): numbers strictly rising, none listed with no
cells. A number not listed is no buffer: it has no cell (log entry 5). -/
abbrev Memory := List (Nat × Cells)

/-- What the block sends across the transport boundary (spec/44_transport_read.md R156): INIT sends ADDR,
READTXN sends ADDR and the byte count. There is no other message (R153). -/
inductive Call where
  | init    (addr : Nat)
  | readTxn (addr count : Nat)
deriving DecidableEq, Repr

/-- The three results of DECODE (spec/42_config_decoder.md R126). -/
structure Decoded where
  reading : Reading
  cfg     : Configuration
  rsvd    : Bit
deriving DecidableEq, Repr

/-- What an invocation returns to its caller (spec/10_state.md R22): one constructor per shape of result.
`None` of READ and ENCODE is an ordinary returned value (spec/00_scope.md R12, spec/60_exceptions.md R175). -/
inductive Result where
  /-- Nothing has been invoked yet. -/
  | idle
  /-- EXTRACT's `v`, port ext_value (R90). -/
  | value (v : Nat)
  /-- PACK's `buf'`, port buf_out (R91). -/
  | buffer (cells : Cells)
  /-- EXTRACTFIELD's uint (R94). -/
  | field (v : Nat)
  /-- PACKFIELD's byteMask (R95). -/
  | byteMask (b : Byte)
  /-- SCALE (R110). -/
  | reading (r : Reading)
  /-- DRDY and its case rows (R120). -/
  | dataReady (b : Bool)
  /-- MODE and its case rows (R121). -/
  | mode (m : Mode)
  /-- RATE and its case rows: `rate_ord` and `dataRate` (R122). -/
  | rate (ord : Nat) (r : DataRate)
  /-- GAIN: `gain_ord` and `gainAmp` (R123). -/
  | gain (ord : Nat) (g : GainAmp)
  /-- GAINMAP (R124). -/
  | gainMap (g : GainAmp)
  /-- RSVD (R125). -/
  | rsvd (b : Bit)
  /-- A case row of GAIN: the table gives it `gain_ord`, `gainAmp` and `rsvd` (log entry 11). -/
  | gainCase (ord : Nat) (g : GainAmp) (rsvd : Bit)
  /-- DECODE (R126). -/
  | decoded (d : Decoded)
  /-- ENCODE: `Some(enc_byte)` with enc_ok = 1, or `None` with enc_ok = 0 (R140). -/
  | encoded (b : Option Byte)
  /-- INIT's `init_ok` (R150). -/
  | initOk (b : Bool)
  /-- READTXN's `(bytes, success)` (R151). -/
  | txn (a : TxnAnswer)
  /-- READ: `Some` with read_ok = 1, or `None` with read_ok = 0 (R152). -/
  | read (d : Option Decoded)
deriving DecidableEq, Repr

/-- A step never faults: "A faulted or stuck state does not exist in this block" (spec/60_exceptions.md R175,
R163). So Fault has no constructor, nobody raises one, and no claim can hide behind one. -/
inductive Fault where
deriving DecidableEq, Repr

/-- Why a step gives no next state. All of these are the spec's own *refuse* (spec/00_scope.md R12), but for
badRequest, which is no invocation at all, and notModelled. -/
inductive Refusal where
  /-- An arm of exec whose instruction has no meaning yet raises it; no arm of this model does. Safe. -/
  | notModelled (mnemonic : String)
  /-- EXTRACT and PACK raise it for a length outside [1, 32] (R45). Safe: the hardware gives no result. -/
  | lengthOutOfContract
  /-- EXTRACT and PACK raise it when startOffset + length > N (R44). Safe: the hardware gives no result. -/
  | boundsOutOfContract
  /-- EXTRACTFIELD and PACKFIELD raise it outside their range (R94, R95). Safe: the spec gives no result. -/
  | fieldOutOfRange
  /-- The step raises it when a request presents no operands of its unit. Safe: nothing was invoked. -/
  | badRequest (e : DecodeError)
deriving DecidableEq, Repr

/-- Everything around the block that the spec names, as plain data. INVENTORY.md lists each field with its
rule and its reset value. -/
structure State where
  /-- The caller's invocations not yet made, the next one first (R23, R32). -/
  pending     : List Request
  /-- The caller's bit buffers (R26, R40). -/
  bufs        : Memory
  /-- The device handle's bus address ADDR, opaque and immutable (R29). -/
  addr        : Nat
  /-- The transport's coming answers to INIT (R150). -/
  initAnswers : List Bool
  /-- The transport's coming answers to READTXN (R151). -/
  txnAnswers  : List TxnAnswer
  /-- What the block has sent to the transport, the latest first (R156). The model's own record. -/
  calls       : List Call
  /-- Feeds the free values: how many answers were free so far. The model's own field. -/
  draws       : Nat
  /-- What the latest invocation returned. No operation reads it (R20). -/
  result      : Result
deriving DecidableEq, Repr

/-- Right after reset. The block has nothing to reset (spec/70_reset_and_hazards.md R180); the fields are the
caller's, the handle's and the transport's, and their values here are DESIGN CHOICE (log entries 2, 5, 7 to 10). -/
def State.reset : State where
  pending     := []
  bufs        := []
  addr        := 0
  initAnswers := []
  txnAnswers  := []
  calls       := []
  draws       := 0
  result      := .idle

end Sys2Proof.Machine
end

