-- ==== Sys2Proof/Machine/Ops.lean ====
section
/-! DEFINITION. The shared operations: the cells of a buffer and the codec's two loops (spec/00_scope.md R10,
spec/40_bitfield_codec.md R90, R91), the contract, the caller's buffers, and one call to the transport.

There is no exception to take and none to return from: "Nothing is saved, no mode changes, no mask is set,
control goes nowhere but back to the caller" (spec/60_exceptions.md R166, R167). `State.returns` is all there is. -/

namespace Sys2Proof.Machine

/-- What a meaning answers. -/
abbrev Out := Host.Outcome State Fault Refusal

/-- `BufRead(buf, k)` (R10): defined for k < N only; no operation reads another cell. -/
def bufRead : Cells → Nat → Bit
  | [], _ => false
  | b :: _, 0 => b
  | _ :: cs, k + 1 => bufRead cs k

/-- `BufWrite(buf, k, v)` (R10): defined for k < N only; past the end it writes nothing. -/
def bufWrite : Cells → Nat → Bit → Cells
  | [], _, _ => []
  | _ :: cs, 0, v => v :: cs
  | b :: cs, k + 1, v => b :: bufWrite cs k v

/-- The loop of EXTRACT (R90): `v <- 2 * v + BufRead(buf, startOffset + i)` for each cell in turn. -/
def extractLoop (buf : Cells) : (offset length acc : Nat) → Nat
  | _, 0, v => v
  | off, n + 1, v => extractLoop buf (off + 1) n (2 * v + (bufRead buf off).toNat)

/-- The field as an unsigned integer, most significant cell first (R90, R41). -/
def extractBits (buf : Cells) (startOffset length : Nat) : Nat := extractLoop buf startOffset length 0

/-- The loop of PACK (R91): `BufWrite(buf', startOffset + i, (value >> (length-1-i)) & 1)` for each cell in turn. -/
def packBits (value : Nat) : (buf : Cells) → (startOffset length : Nat) → Cells
  | buf, _, 0 => buf
  | buf, off, n + 1 => packBits value (bufWrite buf off (value.testBit n)) (off + 1) n

/-- The contract of EXTRACT and PACK, then the operation: outside the contract it is refused and has no
result at all (R44, R45, R90, R91). The length is looked at first (log entry 15). -/
def withField (cells : Cells) (startOffset length : Nat) (op : Out) : Out :=
  if lengthOk length then
    if startOffset + length ≤ cells.length then op else .refused .boundsOutOfContract
  else .refused .lengthOutOfContract

/-- The range of EXTRACTFIELD and PACKFIELD, then the operation (R94, R95). -/
def withinByte (startBit width : Nat) (op : Out) : Out :=
  if fieldOk startBit width then op else .refused .fieldOutOfRange

/-- The cells of the caller's buffer k: none where no buffer k is listed. -/
def Memory.get : Memory → Nat → Cells
  | [], _ => []
  | (k0, c) :: m, k => if k0 = k then c else Memory.get m k

/-- The caller's buffers with buffer k holding these cells, in canonical form. -/
def Memory.set : Memory → Nat → Cells → Memory
  | [], k, c => if c.isEmpty then [] else [(k, c)]
  | (k0, c0) :: m, k, c =>
    if k < k0 then (if c.isEmpty then (k0, c0) :: m else (k, c) :: (k0, c0) :: m)
    else if k = k0 then (if c.isEmpty then m else (k, c) :: m)
    else (k0, c0) :: Memory.set m k c

/-- The canonical form: numbers strictly rising, no buffer without cells. -/
def Memory.wf : Memory → Bool
  | [] => true
  | (k, c) :: m => !c.isEmpty && m.all (fun e => decide (k < e.1)) && Memory.wf m

/-- The cells an operand `buf` names (R74): those presented, or those of the caller's buffer. -/
def State.cells (s : State) : BufArg → Cells
  | .lit cells => cells
  | .caller k => s.bufs.get k

/-- PACK "mutates the caller-supplied buffer in place" (R91); cells presented as a value have no place. -/
def State.putCells (s : State) (buf : BufArg) (cells : Cells) : State :=
  match buf with
  | .lit _ => s
  | .caller k => { s with bufs := s.bufs.set k cells }

/-- The invocation returns to its caller with a result (R166). -/
def State.returns (s : State) (r : Result) : State := { s with result := r }

/-- One INIT call: ADDR goes out (R156), the transport's next answer comes back, or a free one (R150). -/
def State.callInit (s : State) : Bool × State :=
  match s.initAnswers with
  | a :: rest => (a, { s with initAnswers := rest, calls := .init s.addr :: s.calls })
  | [] => (Config.freeInit s.draws, { s with draws := s.draws + 1, calls := .init s.addr :: s.calls })

/-- One READTXN call: ADDR and the count 3 go out (R156), the transport's next answer comes back, or a free
one (R151). -/
def State.callTxn (s : State) : TxnAnswer × State :=
  match s.txnAnswers with
  | a :: rest =>
    (a, { s with txnAnswers := rest, calls := .readTxn s.addr Config.frameBytes :: s.calls })
  | [] =>
    (Config.freeTxn s.draws,
      { s with draws := s.draws + 1, calls := .readTxn s.addr Config.frameBytes :: s.calls })

end Sys2Proof.Machine
end

