-- ==== Sys2Proof/Machine/Cases.lean ====
section
/-! DEFINITION. The twelve case rows of spec/opcode_table.json (spec/30_encoding.md R73): one value of one
field of the configuration byte each (R64 to R67). The row fixes the result; the operand, the bits the row's
mask leaves free, has no influence (spec/42_config_decoder.md R128). -/

namespace Sys2Proof.Machine

/-- DRDY.READY: bit 7 is 0 (R64, R120). -/
def execDrdyReady (_low : BitVec 7) (s : State) : Out := .next (s.returns (.dataReady true))

/-- DRDY.NOTREADY: bit 7 is 1 (R64, R120). -/
def execDrdyNotReady (_low : BitVec 7) (s : State) : Out := .next (s.returns (.dataReady false))

/-- MODE.CONTINUOUS: bit 4 is 0 (R65, R121). -/
def execModeContinuous (_high : BitVec 3) (_low : BitVec 4) (s : State) : Out :=
  .next (s.returns (.mode .continuous))

/-- MODE.SINGLE: bit 4 is 1 (R65, R121). -/
def execModeSingle (_high : BitVec 3) (_low : BitVec 4) (s : State) : Out :=
  .next (s.returns (.mode .single))

/-- RATE.SPS15: bits 3..2 are 00 (R66, R122). -/
def execRateSps15 (_high : BitVec 4) (_low : BitVec 2) (s : State) : Out :=
  .next (s.returns (.rate 0 .sps15))

/-- RATE.SPS30: bits 3..2 are 01 (R66, R122). -/
def execRateSps30 (_high : BitVec 4) (_low : BitVec 2) (s : State) : Out :=
  .next (s.returns (.rate 1 .sps30))

/-- RATE.SPS60: bits 3..2 are 10 (R66, R122). -/
def execRateSps60 (_high : BitVec 4) (_low : BitVec 2) (s : State) : Out :=
  .next (s.returns (.rate 2 .sps60))

/-- RATE.SPS240: bits 3..2 are 11 (R66, R122). -/
def execRateSps240 (_high : BitVec 4) (_low : BitVec 2) (s : State) : Out :=
  .next (s.returns (.rate 3 .sps240))

/-- GAIN.X1: bits 1..0 are 00 (R67, R123). -/
def execGainX1 (_high : BitVec 6) (s : State) : Out := .next (s.returns (.gainCase 0 .x1 false))

/-- GAIN.X2: bits 1..0 are 01 (R67, R123). -/
def execGainX2 (_high : BitVec 6) (s : State) : Out := .next (s.returns (.gainCase 1 .x2 false))

/-- GAIN.X4: bits 1..0 are 10 (R67, R123). -/
def execGainX4 (_high : BitVec 6) (s : State) : Out := .next (s.returns (.gainCase 2 .x4 false))

/-- GAIN.UNKNOWN: bits 1..0 are 11, reserved, not X8 (R67, R69, R123). -/
def execGainUnknown (_high : BitVec 6) (s : State) : Out := .next (s.returns (.gainCase 3 .unknown true))

end Sys2Proof.Machine
end

