-- ==== Sys2Proof/Machine/Operands.lean ====
section
/-! DEFINITION. How each operand of the decoders is assembled from config_byte, in both forms of
spec/30_encoding.md R72, and the enumerations the ordinals and codes go through (R66, R67, R68). -/

namespace Sys2Proof.Machine

/-- `c[i]` (spec/00_scope.md R8). -/
def bitOf (c : Byte) (i : Nat) : Nat := (c.toNat >>> i) &&& 1

/-- `c[hi:lo]` (R8). -/
def slice (c : Byte) (hi lo : Nat) : Nat := (c.toNat >>> lo) &&& (2 ^ (hi - lo + 1) - 1)

/-- The all-zero 8-cell buffer `zeros8` (spec/42_config_decoder.md R122). -/
def zeros8 : Cells := List.replicate Config.byteWidth false

/-- The 8-cell image of a byte, `PACK(config_byte, zeros8, 0, 8)`: offset = 7 - bit number (R47, R72). -/
def image8 (c : Byte) : Cells := packBits c.toNat zeros8 0 Config.byteWidth

/-! Bit-buffer form. -/

/-- The ready-low bit, cell 0 of the image (R72). -/
def readyLow (c : Byte) : Bit := bufRead (image8 c) 0

/-- The mode bit, cell 3 of the image (R72). -/
def modeBit (c : Byte) : Bit := bufRead (image8 c) 3

/-- The rate ordinal, `EXTRACT(buf8, 4, 2)` (R72, R122). -/
def rateOrdinal (c : Byte) : Nat := extractBits (image8 c) 4 2

/-- The gain ordinal, `EXTRACT(buf8, 6, 2)` (R72, R123). -/
def gainOrdinal (c : Byte) : Nat := extractBits (image8 c) 6 2

/-! Shift-and-mask form. -/

/-- The ready-low bit as `(config_byte >> 7) & 1` (R72). -/
def readyLowShift (c : Byte) : Nat := bitOf c 7

/-- The mode bit as `(config_byte >> 4) & 1` (R72). -/
def modeBitShift (c : Byte) : Nat := bitOf c 4

/-- The rate ordinal as `(config_byte >> 2) & 3` (R72). -/
def rateOrdinalShift (c : Byte) : Nat := slice c 3 2

/-- The gain ordinal as `config_byte & 3` (R72). -/
def gainOrdinalShift (c : Byte) : Nat := slice c 1 0

/-! Ordinals and codes. -/

/-- `mode` of its bit: no inversion (R65, R121). -/
def modeOf (b : Bit) : Mode := if b then .single else .continuous

/-- `[SPS15, SPS30, SPS60, SPS240][rate_ord]` (R66, R122); a 2-bit ordinal is at most 3. -/
def rateOf : Nat → DataRate
  | 0 => .sps15
  | 1 => .sps30
  | 2 => .sps60
  | _ => .sps240

/-- The samples per second of a data rate (R66). -/
def samplesPerSecond : DataRate → Nat
  | .sps15 => 15
  | .sps30 => 30
  | .sps60 => 60
  | .sps240 => 240

/-- The mapper of the sparse value space: 4 is X8, every other code but 0, 1, 2 is Unknown (R68, R124). -/
def gainOf : Nat → GainAmp
  | 0 => .x1
  | 1 => .x2
  | 2 => .x4
  | 4 => .x8
  | _ => .unknown

/-- The underlying value of a member; Unknown has none (R68). -/
def gainValue : GainAmp → Option Nat
  | .x1 => some 0
  | .x2 => some 1
  | .x4 => some 2
  | .x8 => some 4
  | .unknown => none

/-- The amplification factor of a member; Unknown has none (R68). -/
def gainFactor : GainAmp → Option Nat
  | .x1 => some 1
  | .x2 => some 2
  | .x4 => some 4
  | .x8 => some 8
  | .unknown => none

/-! The Reading. -/

/-- A natural number as a Reading. -/
def readingOfNat (n : Nat) : Reading := ⟨16 * n⟩

/-- A natural number divided by 16, exactly (R110: "not an integer division"). -/
def readingOfSixteenths (n : Nat) : Reading := ⟨n⟩

/-- The exact sum of two Readings. -/
def readingAdd (a b : Reading) : Reading := ⟨a.sixteenths + b.sixteenths⟩

/-- `high_byte * 16 + low_byte / 16` (R110), bytes unsigned (R111). -/
def scaleOf (high low : Byte) : Reading :=
  readingAdd (readingOfNat (high.toNat * 16)) (readingOfSixteenths low.toNat)

end Sys2Proof.Machine
end

