-- ==== Sys2Proof/Machine/Flags.lean ====
section
/-! DEFINITION. The four one-bit results that play the part of flags (spec/10_state.md R24): each is computed
from the operands of one invocation and retained nowhere. -/

namespace Sys2Proof.Machine

/-- `dataReady`: true when bit 7 is 0, inverted logic (R120). -/
def dataReadyFlag (config : Byte) : Bool := !readyLow config

/-- `rsvd`: 1 when the gain ordinal is 3, the only reserved ordinal (R125). -/
def rsvdFlag (config : Byte) : Bit := gainOrdinal config == 3

/-- `read_ok`: the transport reports success and gave exactly 3 bytes (R152). -/
def readOkFlag (a : TxnAnswer) : Bit := a.success && a.bytes.length == Config.frameBytes

/-- `enc_ok`: the gain can be encoded. X8 and Unknown cannot (R141); with the optional switch on, X8 can. -/
def encOkFlag (truncatesX8 : Bool) (cfg : Configuration) : Bit :=
  match cfg.gainAmp with
  | .x1 => true
  | .x2 => true
  | .x4 => true
  | .x8 => truncatesX8
  | .unknown => false

end Sys2Proof.Machine
end

