-- ==== Sys2Proof/Machine/Codec.lean ====
section
/-! DEFINITION. The bit-field codec: EXTRACT, PACK, EXTRACTFIELD, PACKFIELD (spec/40_bitfield_codec.md). -/

namespace Sys2Proof.Machine

/-- EXTRACT (R90). -/
def execExtract (buf : BufArg) (startOffset length : Nat) (s : State) : Out :=
  withField (s.cells buf) startOffset length
    (.next (s.returns (.value (extractBits (s.cells buf) startOffset length))))

/-- PACK (R91): the new buffer is returned and, for a buffer of the caller, takes its place. -/
def execPack (value : Nat) (buf : BufArg) (startOffset length : Nat) (s : State) : Out :=
  withField (s.cells buf) startOffset length
    (.next ((s.putCells buf (packBits value (s.cells buf) startOffset length)).returns
      (.buffer (packBits value (s.cells buf) startOffset length))))

/-- `(byte >> startBit) & (2^width - 1)` (R94). -/
def fieldOfByte (c : Byte) (startBit width : Nat) : Nat := (c.toNat >>> startBit) &&& (2 ^ width - 1)

/-- `(value mod 2^width) << startBit` (R95). -/
def maskOfField (value startBit width : Nat) : Byte := BitVec.ofNat 8 ((value % 2 ^ width) <<< startBit)

/-- EXTRACTFIELD (R94). -/
def execExtractField (c : Byte) (startBit width : Nat) (s : State) : Out :=
  withinByte startBit width (.next (s.returns (.field (fieldOfByte c startBit width))))

/-- PACKFIELD (R95). -/
def execPackField (value startBit width : Nat) (s : State) : Out :=
  withinByte startBit width (.next (s.returns (.byteMask (maskOfField value startBit width))))

end Sys2Proof.Machine
end

