-- ==== Sys2Proof/Machine/Scaler.lean ====
section
/-! DEFINITION. The reading scaler: SCALE (spec/41_reading_scaler.md). -/

namespace Sys2Proof.Machine

/-- SCALE (R110): total over all operand pairs. -/
def execScale (high low : Byte) (s : State) : Out := .next (s.returns (.reading (scaleOf high low)))

end Sys2Proof.Machine
end

