-- ==== Sys2Proof/Machine/ConfigDecoder.lean ====
section
/-! DEFINITION. The configuration decoder: DRDY, MODE, RATE, GAIN, GAINMAP, RSVD, DECODE
(spec/42_config_decoder.md). -/

namespace Sys2Proof.Machine

/-- DRDY (R120). -/
def execDrdy (config : Byte) (s : State) : Out := .next (s.returns (.dataReady (dataReadyFlag config)))

/-- MODE (R121). -/
def execMode (config : Byte) (s : State) : Out := .next (s.returns (.mode (modeOf (modeBit config))))

/-- RATE (R122). -/
def execRate (config : Byte) (s : State) : Out :=
  .next (s.returns (.rate (rateOrdinal config) (rateOf (rateOrdinal config))))

/-- GAIN (R123): no flag of its own. -/
def execGain (config : Byte) (s : State) : Out :=
  .next (s.returns (.gain (gainOrdinal config) (gainOf (gainOrdinal config))))

/-- GAINMAP (R124). -/
def execGainMap (code : Nat) (s : State) : Out := .next (s.returns (.gainMap (gainOf code)))

/-- RSVD (R125). -/
def execRsvd (config : Byte) (s : State) : Out := .next (s.returns (.rsvd (rsvdFlag config)))

/-- The Configuration of a configuration byte, steps 2 to 5 of DECODE (R126). -/
def configOf (config : Byte) : Configuration where
  dataReady := dataReadyFlag config
  mode      := modeOf (modeBit config)
  dataRate  := rateOf (rateOrdinal config)
  gainAmp   := gainOf (gainOrdinal config)

/-- DECODE of one RawSample (R126): total, with no failure in its type (R127). -/
def decodeFrame (high low config : Byte) : Decoded where
  reading := scaleOf high low
  cfg     := configOf config
  rsvd    := rsvdFlag config

/-- DECODE (R126). -/
def execDecode (high low config : Byte) (s : State) : Out :=
  .next (s.returns (.decoded (decodeFrame high low config)))

end Sys2Proof.Machine
end

