-- ==== Sys2Proof/Machine/ConfigEncoder.lean ====
section
/-! DEFINITION. The configuration encoder: ENCODE (spec/43_config_encoder.md). -/

namespace Sys2Proof.Machine

/-- The four PACK calls and the EXTRACT of R140 on one 8-cell buffer that starts as zeros8, for a gain of the
given underlying value; `mode` and `dataRate` go in by their enumeration values (R65, R66). Bit 7 is the negation of dataReady; bits 6 and 5 stay 0. -/
def encodeImage (cfg : Configuration) (gain : Nat) : Nat :=
  let buf1 := packBits (if cfg.dataReady then 0 else 1) zeros8 0 1
  let buf2 := packBits (modePort cfg.mode) buf1 3 1
  let buf3 := packBits (rateOrd cfg.dataRate) buf2 4 2
  let buf4 := packBits gain buf3 6 2
  extractBits buf4 0 8

/-- ENCODE (R140, R141): a byte, or None for a gain that cannot be encoded. The switch is R141's option. -/
def encodeConfig (truncatesX8 : Bool) (cfg : Configuration) : Option Byte :=
  if encOkFlag truncatesX8 cfg then
    (gainValue cfg.gainAmp).map fun gain => BitVec.ofNat 8 (encodeImage cfg gain)
  else none

/-- ENCODE (R140). -/
def execEncode (cfg : Configuration) (s : State) : Out :=
  .next (s.returns (.encoded (encodeConfig Config.encTruncatesX8 cfg)))

end Sys2Proof.Machine
end

