-- ==== Sys2Proof/Machine/Transport.lean ====
section
/-! DEFINITION. The transport boundary: INIT, READTXN, READ (spec/44_transport_read.md). -/

namespace Sys2Proof.Machine

/-- INIT (R150): the answer goes to the caller unchanged, nothing is stored. -/
def execInit (s : State) : Out := .next (s.callInit.2.returns (.initOk s.callInit.1))

/-- READTXN (R151): one read transaction, its answer to the caller. -/
def execReadTxn (s : State) : Out := .next (s.callTxn.2.returns (.txn s.callTxn.1))

/-- What READ makes of the transport's answer (R152): DECODE of bytes[0], bytes[1], bytes[2] on success with
exactly 3 bytes, else "read unavailable". -/
def readResult (a : TxnAnswer) : Option Decoded :=
  if readOkFlag a then
    match a.bytes with
    | [high, low, config] => some (decodeFrame high low config)
    | _ => none
  else none

/-- READ (R152): exactly one READTXN call, no retry. -/
def execRead (s : State) : Out := .next (s.callTxn.2.returns (.read (readResult s.callTxn.1)))

end Sys2Proof.Machine
end

