-- ==== Sys2Proof/Machine/Dispatch.lean ====
section
/-! DEFINITION. One arm per operation and case row, each one call of its meaning. -/

namespace Sys2Proof.Machine

def exec (i : Instr) (s : State) : Host.Outcome State Fault Refusal :=
  match i with
  | .extract buf off len => Sys2Proof.Machine.execExtract buf off len s
  | .pack v buf off len => Sys2Proof.Machine.execPack v buf off len s
  | .extractField c startBit width => Sys2Proof.Machine.execExtractField c startBit width s
  | .packField v startBit width => Sys2Proof.Machine.execPackField v startBit width s
  | .scale high low => Sys2Proof.Machine.execScale high low s
  | .drdy config => Sys2Proof.Machine.execDrdy config s
  | .mode config => Sys2Proof.Machine.execMode config s
  | .rate config => Sys2Proof.Machine.execRate config s
  | .gain config => Sys2Proof.Machine.execGain config s
  | .gainMap code => Sys2Proof.Machine.execGainMap code s
  | .rsvd config => Sys2Proof.Machine.execRsvd config s
  | .decode high low config => Sys2Proof.Machine.execDecode high low config s
  | .encode cfg => Sys2Proof.Machine.execEncode cfg s
  | .init => Sys2Proof.Machine.execInit s
  | .readTxn => Sys2Proof.Machine.execReadTxn s
  | .read => Sys2Proof.Machine.execRead s
  | .drdyReady low => Sys2Proof.Machine.execDrdyReady low s
  | .drdyNotReady low => Sys2Proof.Machine.execDrdyNotReady low s
  | .modeContinuous high low => Sys2Proof.Machine.execModeContinuous high low s
  | .modeSingle high low => Sys2Proof.Machine.execModeSingle high low s
  | .rateSps15 high low => Sys2Proof.Machine.execRateSps15 high low s
  | .rateSps30 high low => Sys2Proof.Machine.execRateSps30 high low s
  | .rateSps60 high low => Sys2Proof.Machine.execRateSps60 high low s
  | .rateSps240 high low => Sys2Proof.Machine.execRateSps240 high low s
  | .gainX1 high => Sys2Proof.Machine.execGainX1 high s
  | .gainX2 high => Sys2Proof.Machine.execGainX2 high s
  | .gainX4 high => Sys2Proof.Machine.execGainX4 high s
  | .gainUnknown high => Sys2Proof.Machine.execGainUnknown high s

end Sys2Proof.Machine
end

