-- ==== Sys2Proof/Machine/Step.lean ====
section
/-! DEFINITION. One step: the caller's next invocation (spec/10_state.md R23, R32). -/

namespace Sys2Proof.Machine

/-- The next waiting request is taken off the list and invoked; it completes before the next begins
(spec/20_memory.md R49). With none waiting nothing happens: the block "does nothing between invocations" (R32). -/
def step (s : State) : Host.Outcome State Fault Refusal :=
  match s.pending with
  | [] => .next s
  | r :: rest =>
    match decode r with
    | .ok i => exec i { s with pending := rest }
    | .error e => .refused (.badRequest e)

/-- The host's probe (log entry 4): the request that presents a bare table word becomes the caller's next. -/
def State.withFetchWord (s : State) (nbits w : Nat) : State :=
  { s with pending := tableRequest nbits w :: s.pending }

end Sys2Proof.Machine
end

