-- ==== Sys2Proof/Machine/Ports.lean ====
section
/-! DEFINITION. The output ports (spec/92_eei_decisions.md D2; spec/30_encoding.md R70, R71) as functions of
what the latest invocation returned, and the floating-point view of the Reading (spec/41_reading_scaler.md
R114). A port the invocation does not drive, or whose value the spec leaves undefined (R152, D23), is none. -/

namespace Sys2Proof.Machine

/-- The decoded record an invocation returned, by DECODE or by a READ that succeeded. -/
def Result.decodedOf : Result → Option Decoded
  | .decoded d => some d
  | .read d => d
  | .idle => none
  | .value _ => none
  | .buffer _ => none
  | .field _ => none
  | .byteMask _ => none
  | .reading _ => none
  | .dataReady _ => none
  | .mode _ => none
  | .rate _ _ => none
  | .gain _ _ => none
  | .gainMap _ => none
  | .rsvd _ => none
  | .gainCase _ _ _ => none
  | .encoded _ => none
  | .initOk _ => none
  | .txn _ => none

/-- The Reading an invocation returned (R28: by SCALE, DECODE and successful READ). -/
def Result.readingOf : Result → Option Reading
  | .reading r => some r
  | r => r.decodedOf.map Decoded.reading

/-- Flag `dataReady` (R24: produced by DRDY, DECODE; and by READ as DECODE returns it). -/
def Result.dataReadyOf : Result → Option Bool
  | .dataReady b => some b
  | r => r.decodedOf.map fun d => d.cfg.dataReady

/-- The Mode an invocation returned. -/
def Result.modeOf : Result → Option Mode
  | .mode m => some m
  | r => r.decodedOf.map fun d => d.cfg.mode

/-- The DataRate an invocation returned. -/
def Result.dataRateOf : Result → Option DataRate
  | .rate _ d => some d
  | r => r.decodedOf.map fun d => d.cfg.dataRate

/-- The GainAmp an invocation returned. -/
def Result.gainAmpOf : Result → Option GainAmp
  | .gain _ g => some g
  | .gainCase _ g _ => some g
  | .gainMap g => some g
  | r => r.decodedOf.map fun d => d.cfg.gainAmp

/-- Flag `rsvd` (R24: produced by RSVD, DECODE; and by READ as DECODE returns it). -/
def Result.rsvdOf : Result → Option Bit
  | .rsvd b => some b
  | .gainCase _ _ b => some b
  | r => r.decodedOf.map Decoded.rsvd

/-- Flag `read_ok` (R24, R152): 1 for `Some`, 0 for `None`. -/
def Result.readOkOf : Result → Option Bit
  | .read d => some d.isSome
  | _ => none

/-- Flag `enc_ok` (R24, R140): 1 for `Some`, 0 for `None`. -/
def Result.encOkOf : Result → Option Bit
  | .encoded b => some b.isSome
  | _ => none

/-- Result `enc_byte`, "meaningful only when enc_ok = 1" (R140). -/
def Result.encByteOf : Result → Option Byte
  | .encoded b => b
  | _ => none

/-- Port `reading_q[15:0]`, UQ12.4: the number of sixteenths (R71, R112). -/
def readingQ (r : Reading) : BitVec 16 := BitVec.ofNat 16 r.sixteenths

/-- The output ports of the block after an invocation (D2, R70, R71). -/
structure Ports where
  readingQ  : Option (BitVec 16)
  dataReady : Option (BitVec 1)
  mode      : Option (BitVec 1)
  rateOrd   : Option (BitVec 2)
  gainCode  : Option (BitVec 3)
  rsvd      : Option (BitVec 1)
  readOk    : Option (BitVec 1)
  encByte   : Option (BitVec 8)
  encOk     : Option (BitVec 1)
  extValue  : Option (BitVec 32)
  bufOut    : Option Cells
deriving DecidableEq, Repr

/-- `Bool` on a port: false is 0 and true is 1 (R11). -/
def bitPort (b : Bool) : BitVec 1 := BitVec.ofBool b

/-- The output ports as the latest result drives them. -/
def Result.ports (r : Result) : Ports where
  readingQ  := r.readingOf.map Machine.readingQ
  dataReady := r.dataReadyOf.map bitPort
  mode      := r.modeOf.map fun m => BitVec.ofNat 1 (modePort m)
  rateOrd   := r.dataRateOf.map fun d => BitVec.ofNat 2 (Sys2Proof.rateOrd d)
  gainCode  := r.gainAmpOf.map fun g => BitVec.ofNat 3 (Sys2Proof.gainCode g)
  rsvd      := r.rsvdOf.map bitPort
  readOk    := r.readOkOf.map bitPort
  encByte   := r.encByteOf
  encOk     := r.encOkOf.map bitPort
  extValue  := match r with
    | .value v => some (BitVec.ofNat 32 v)
    | _ => none
  bufOut    := match r with
    | .buffer c => some c
    | _ => none

/-- The binary32 pattern of a Reading (R114): W = 0 is +0.0, else sign 0, biased exponent p - 4 + 127 and
fraction field (W - 2^p) << (23 - p), p the position of W's leading 1. PRESUMED (log entry 19): IEEE 754 (G1). -/
def binary32 (r : Reading) : BitVec 32 :=
  let w := r.sixteenths
  if w = 0 then 0
  else
    let p := Nat.log2 w
    BitVec.ofNat 32 ((p + 123) <<< 23 + (w - 2 ^ p) <<< (23 - p))

/-- The binary64 pattern of a Reading (R114): biased exponent p - 4 + 1023, fraction field
(W - 2^p) << (52 - p). PRESUMED (log entry 19): IEEE 754 (G1). -/
def binary64 (r : Reading) : BitVec 64 :=
  let w := r.sixteenths
  if w = 0 then 0
  else
    let p := Nat.log2 w
    BitVec.ofNat 64 ((p + 1019) <<< 52 + (w - 2 ^ p) <<< (52 - p))

/-- The number a binary32 pattern with sign 0 stands for, for zero and for the normal numbers (G1):
(2^23 + fraction) * 2^(exponent - 150). -/
def valueOfBinary32 (x : BitVec 32) : Rat :=
  if x = 0 then 0
  else ((2 ^ 23 + x.toNat % 2 ^ 23 : Nat) : Rat) * 2 ^ (x.toNat / 2 ^ 23) / 2 ^ 150

/-- The number a binary64 pattern with sign 0 stands for, for zero and for the normal numbers (G1):
(2^52 + fraction) * 2^(exponent - 1075). -/
def valueOfBinary64 (x : BitVec 64) : Rat :=
  if x = 0 then 0
  else ((2 ^ 52 + x.toNat % 2 ^ 52 : Nat) : Rat) * 2 ^ (x.toNat / 2 ^ 52) / 2 ^ 1075

end Sys2Proof.Machine
end

