-- ==== Sys2Proof/Safety.lean ====
section
/-! DEFINITION. The terms claims use: the invariant of the machine, built from the value domains of
spec/00_scope.md R11 and the ranges the rules give each result. -/

namespace Sys2Proof.Machine

/-- The domain of Reading (R11): W / 16 for W an integer 0 to 65535. -/
def Reading.ok (r : Reading) : Bool := decide (r.sixteenths ≤ 65535)

/-- A result of DECODE (R126): the Reading in its domain, X8 "never a result" (R123), and rsvd "always equal to
(gainAmp = Unknown)" (R125). -/
def Decoded.ok (d : Decoded) : Bool :=
  Reading.ok d.reading && decide (d.cfg.gainAmp ≠ .x8) && d.rsvd == decide (d.cfg.gainAmp = .unknown)

/-- What each operation may return: EXTRACT a number of at most 32 bits (R90), PACK a buffer of at least one
cell, EXTRACTFIELD at most a byte, RATE and GAIN a 2-bit ordinal with its own member (R122, R123), ENCODE a
byte of its image (R140: `b & 0x60 = 0` and `b & 0x03 != 3`). -/
def Result.ok : Result → Bool
  | .idle => true
  | .value v => decide (v < 2 ^ 32)
  | .buffer c => !c.isEmpty
  | .field v => decide (v < 256)
  | .byteMask _ => true
  | .reading r => Reading.ok r
  | .dataReady _ => true
  | .mode _ => true
  | .rate ord d => decide (ord < 4) && decide (d = rateOf ord)
  | .gain ord g => decide (ord < 4) && decide (g = gainOf ord) && decide (g ≠ .x8)
  | .gainMap _ => true
  | .rsvd _ => true
  | .gainCase ord g b =>
    decide (ord < 4) && decide (g = gainOf ord) && decide (g ≠ .x8) && b == decide (g = .unknown)
  | .decoded d => Decoded.ok d
  | .encoded none => true
  | .encoded (some b) => decide (b &&& 0x60#8 = 0#8) && decide (b &&& 0x03#8 ≠ 0x03#8)
  | .initOk _ => true
  | .txn _ => true
  | .read none => true
  | .read (some d) => Decoded.ok d

/-- The invariant: the caller's buffers are in canonical form, and the latest result lies in its range. -/
abbrev State.Inv (s : State) : Prop := Memory.wf s.bufs = true ∧ Result.ok s.result = true

/-- A step that gives a next state: the caller's next invocation was in contract. -/
abbrev State.Safe (s : State) : Prop := ∃ t, step s = .next t

end Sys2Proof.Machine
end

