-- ==== Sys2Proof/Certificates/Slice0/Obligations.lean ====
section
/-! DEFINITION. The statements for the provers, one per obligation of OBLIGATIONS.json. Where a statement's
result is `{ s with … }`, everything not named is unchanged: that is its frame. -/

open Sys2Proof Sys2Proof.Machine

/-! The codec (spec/40_bitfield_codec.md). -/

/-- R90: EXTRACT in contract returns `sum over i in 0..length-1 of BufRead(buf, startOffset + i) *
2^(length-1-i)`, below 2^length, and changes nothing. -/
def Obligations.ExtractReadsMostSignificantFirst : Prop :=
  ∀ (s : State) (b : BufArg) (off len : Nat),
    1 ≤ len → len ≤ 32 → off + len ≤ (s.cells b).length →
    ∃ v, exec (.extract b off len) s = .next { s with result := .value v } ∧
      v = ∑ i ∈ Finset.range len, ((s.cells b).getD (off + i) false).toNat * 2 ^ (len - 1 - i) ∧
      v < 2 ^ len

/-- R91: PACK in contract: `buf'[startOffset + i] = value[length-1-i]` for 0 <= i < length, every other cell
unchanged; the caller's own buffer is changed in place, no other buffer and nothing else. -/
def Obligations.PackWritesLowBitsInPlace : Prop :=
  ∀ (s : State) (value : Nat) (b : BufArg) (off len : Nat),
    1 ≤ len → len ≤ 32 → off + len ≤ (s.cells b).length →
    ∃ (buf' : Cells) (bufs' : Memory),
      exec (.pack value b off len) s = .next { s with bufs := bufs', result := .buffer buf' } ∧
      buf'.length = (s.cells b).length ∧
      (∀ i, i < len → buf'.getD (off + i) false = value.testBit (len - 1 - i)) ∧
      (∀ k, (k < off ∨ off + len ≤ k) → buf'.getD k false = (s.cells b).getD k false) ∧
      (∀ k, b = .caller k → Memory.get bufs' k = buf' ∧
        ∀ j, j ≠ k → Memory.get bufs' j = Memory.get s.bufs j) ∧
      (∀ c, b = .lit c → bufs' = s.bufs)

/-- 20_memory.md section 3: EXTRACT and PACK are refused, with no result at all, outside their contract. The
refusal is the spec's own decision (D13, D14); that the length is looked at first is the model's (log entry 15). -/
def Obligations.CodecRefusedOutOfContract : Prop :=
  ∀ (s : State) (value : Nat) (b : BufArg) (off len : Nat),
    ((len < 1 ∨ 32 < len) →
      exec (.extract b off len) s = .refused .lengthOutOfContract ∧
      exec (.pack value b off len) s = .refused .lengthOutOfContract) ∧
    (1 ≤ len → len ≤ 32 → (s.cells b).length < off + len →
      exec (.extract b off len) s = .refused .boundsOutOfContract ∧
      exec (.pack value b off len) s = .refused .boundsOutOfContract)

/-- 40_bitfield_codec.md section 3, laws L1 and L2: EXTRACT of the field a PACK wrote into a buffer of the
caller returns the value mod 2^length, so the value itself where it fits. -/
def Obligations.PackThenExtractTruncates : Prop :=
  ∀ (s : State) (value k off len : Nat),
    1 ≤ len → len ≤ 32 → off + len ≤ (Memory.get s.bufs k).length →
    ∃ t, exec (.pack value (.caller k) off len) s = .next t ∧
      exec (.extract (.caller k) off len) t = .next { t with result := .value (value % 2 ^ len) } ∧
      (value < 2 ^ len → value % 2 ^ len = value)

/-- 40_bitfield_codec.md section 3, law L3: packing back what was extracted leaves every buffer as it was. -/
def Obligations.ExtractThenPackRestores : Prop :=
  ∀ (s : State) (k off len : Nat), Memory.wf s.bufs = true →
    1 ≤ len → len ≤ 32 → off + len ≤ (Memory.get s.bufs k).length →
    ∃ v, exec (.extract (.caller k) off len) s = .next { s with result := .value v } ∧
      exec (.pack v (.caller k) off len) s =
        .next { s with result := .buffer (Memory.get s.bufs k) }

/-- 40_bitfield_codec.md section 3, law L4: an EXTRACT of a field disjoint from the PACK's, or of another
buffer, returns what it returned before the PACK. -/
def Obligations.ExtractOfOtherFieldUnaffectedByPack : Prop :=
  ∀ (s : State) (value k off len j off' len' : Nat),
    1 ≤ len → len ≤ 32 → off + len ≤ (Memory.get s.bufs k).length →
    1 ≤ len' → len' ≤ 32 → off' + len' ≤ (Memory.get s.bufs j).length →
    (j ≠ k ∨ off' + len' ≤ off ∨ off + len ≤ off') →
    ∃ t v, exec (.pack value (.caller k) off len) s = .next t ∧
      exec (.extract (.caller j) off' len') s = .next { s with result := .value v } ∧
      exec (.extract (.caller j) off' len') t = .next { t with result := .value v }

/-- 40_bitfield_codec.md section 3, law L5: a field read inside a packed field sees its bits,
`(value >> (length - a - m)) mod 2^m`. -/
def Obligations.SubFieldOfPackedField : Prop :=
  ∀ (s : State) (value k off len a m : Nat),
    1 ≤ len → len ≤ 32 → off + len ≤ (Memory.get s.bufs k).length → 1 ≤ m → a + m ≤ len →
    ∃ t, exec (.pack value (.caller k) off len) s = .next t ∧
      exec (.extract (.caller k) (off + a) m) t =
        .next { t with result := .value (value / 2 ^ (len - a - m) % 2 ^ m) }

/-- 40_bitfield_codec.md section 3, law L6, with 20_memory.md section 5: a second PACK of the same field
leaves its own value, whatever the first wrote, and PACK twice equals PACK once. -/
def Obligations.LaterPackOverwrites : Prop :=
  ∀ (s : State) (v w k off len : Nat),
    1 ≤ len → len ≤ 32 → off + len ≤ (Memory.get s.bufs k).length →
    ∃ t u, exec (.pack v (.caller k) off len) s = .next t ∧
      exec (.pack w (.caller k) off len) t = .next u ∧
      exec (.pack w (.caller k) off len) s = .next u ∧
      exec (.extract (.caller k) off len) u = .next { u with result := .value (w % 2 ^ len) }

/-- 40_bitfield_codec.md section 3, law L7: `EXTRACT(buf, s, m + n) = EXTRACT(buf, s, m) * 2^n +
EXTRACT(buf, s + m, n)`. -/
def Obligations.AdjacentFieldsConcatenate : Prop :=
  ∀ (s : State) (b : BufArg) (off m n : Nat),
    1 ≤ m → 1 ≤ n → m + n ≤ 32 → off + (m + n) ≤ (s.cells b).length →
    ∃ x y, exec (.extract b off m) s = .next { s with result := .value x } ∧
      exec (.extract b (off + m) n) s = .next { s with result := .value y } ∧
      exec (.extract b off (m + n)) s = .next { s with result := .value (x * 2 ^ n + y) }

/-- 40_bitfield_codec.md section 4 (the spec's own definition, D31): EXTRACTFIELD in range is
`(byte >> startBit) mod 2^width`, and equals its expansion through the image of the byte in any 8-cell
buffer; outside its range it is refused. -/
def Obligations.ExtractFieldShiftsAndMasks : Prop :=
  ∀ (s : State) (c : Byte) (startBit width : Nat),
    (1 ≤ width → startBit + width ≤ 8 →
      exec (.extractField c startBit width) s =
        .next { s with result := .field (c.toNat / 2 ^ startBit % 2 ^ width) } ∧
      ∀ buf8 : Cells, buf8.length = 8 →
        ∃ img, exec (.pack c.toNat (.lit buf8) 0 8) s = .next { s with result := .buffer img } ∧
          exec (.extract (.lit img) (8 - startBit - width) width) s =
            .next { s with result := .value (c.toNat / 2 ^ startBit % 2 ^ width) }) ∧
    (¬(1 ≤ width ∧ startBit + width ≤ 8) →
      exec (.extractField c startBit width) s = .refused .fieldOutOfRange)

/-- 40_bitfield_codec.md section 4 (the spec's own definition, D31): PACKFIELD in range is
`(value mod 2^width) << startBit`, EXTRACTFIELD of its byte gives back the value mod 2^width, and outside its
range it is refused. -/
def Obligations.PackFieldBuildsMask : Prop :=
  ∀ (s : State) (value startBit width : Nat),
    (1 ≤ width → startBit + width ≤ 8 →
      ∃ m : Byte, m.toNat = value % 2 ^ width * 2 ^ startBit ∧
        exec (.packField value startBit width) s = .next { s with result := .byteMask m } ∧
        exec (.extractField m startBit width) s = .next { s with result := .field (value % 2 ^ width) }) ∧
    (¬(1 ≤ width ∧ startBit + width ≤ 8) →
      exec (.packField value startBit width) s = .refused .fieldOutOfRange)

/-- 40_bitfield_codec.md section 1: in contract EXTRACT drives ext_value[31:0] with the field's value, no bit
lost, and PACK drives buf_out[N] with the new buffer. The ports and their widths are the spec's own decisions (D2,
D15); that no other port is driven, and is shown as none, is the model's choice (log entry 20). -/
def Obligations.CodecDrivesThePorts : Prop :=
  ∀ (s : State) (value : Nat) (b : BufArg) (off len : Nat),
    1 ≤ len → len ≤ 32 → off + len ≤ (s.cells b).length →
    (∃ (r : Result) (v : BitVec 32), exec (.extract b off len) s = .next { s with result := r } ∧
      v.toNat = ∑ i ∈ Finset.range len, ((s.cells b).getD (off + i) false).toNat * 2 ^ (len - 1 - i) ∧
      r.ports = { readingQ := none, dataReady := none, mode := none, rateOrd := none, gainCode := none,
                  rsvd := none, readOk := none, encByte := none, encOk := none, extValue := some v,
                  bufOut := none }) ∧
    (∃ (r : Result) (bufs' : Memory) (out : Cells),
      exec (.pack value b off len) s = .next { s with bufs := bufs', result := r } ∧
      out.length = (s.cells b).length ∧
      (∀ i, i < len → out.getD (off + i) false = value.testBit (len - 1 - i)) ∧
      (∀ k, (k < off ∨ off + len ≤ k) → out.getD k false = (s.cells b).getD k false) ∧
      r.ports = { readingQ := none, dataReady := none, mode := none, rateOrd := none, gainCode := none,
                  rsvd := none, readOk := none, encByte := none, encOk := none, extValue := none,
                  bufOut := some out })

/-! The scaler (spec/41_reading_scaler.md). -/

/-- R110: SCALE returns `high_byte * 16 + low_byte / 16`, exactly, and changes nothing. -/
def Obligations.ScaleIsWeightedSum : Prop :=
  ∀ (s : State) (high low : Byte),
    ∃ r, exec (.scale high low) s = .next { s with result := .reading r } ∧
      r.toRat = (high.toNat : Rat) * 16 + (low.toNat : Rat) / 16

/-- 41_reading_scaler.md, fixed-point form and range: the port word is the concatenation of the two bytes,
the Reading is that word over 16, so never negative and at most 4095.9375. The port format is the spec's
decision D6. -/
def Obligations.ReadingIsFixedPointWord : Prop :=
  ∀ (s : State) (high low : Byte),
    ∃ r, exec (.scale high low) s = .next { s with result := .reading r } ∧
      readingQ r = high ++ low ∧
      r.toRat = ((readingQ r).toNat : Rat) / 16 ∧
      0 ≤ r.toRat ∧ r.toRat ≤ 40959375 / 10000

/-- 95_test_vectors.md section 2.2: SCALE is strictly increasing in (high, low) ordered lexicographically. -/
def Obligations.ScaleStrictlyIncreasing : Prop :=
  ∀ (s : State) (high low high' low' : Byte),
    ∃ r r', exec (.scale high low) s = .next { s with result := .reading r } ∧
      exec (.scale high' low') s = .next { s with result := .reading r' } ∧
      (r.toRat < r'.toRat ↔ high.toNat < high'.toNat ∨ (high = high' ∧ low.toNat < low'.toNat))

/-- 41_reading_scaler.md, floating-point view: the binary32 and binary64 patterns stand for exactly the
Reading, with sign 0 and an exponent that is neither all ones nor, above zero, 0. That the formats are IEEE
754's is PRESUMED (log entry 19, G1). -/
def Obligations.FloatViewsAreExact : Prop :=
  ∀ (s : State) (high low : Byte),
    ∃ r, exec (.scale high low) s = .next { s with result := .reading r } ∧
      valueOfBinary32 (binary32 r) = r.toRat ∧ valueOfBinary64 (binary64 r) = r.toRat ∧
      (binary32 r).toNat < 255 * 2 ^ 23 ∧ (binary64 r).toNat < 2047 * 2 ^ 52 ∧
      (0 < r.toRat → 2 ^ 23 ≤ (binary32 r).toNat ∧ 2 ^ 52 ≤ (binary64 r).toNat)

/-! The configuration decoder (spec/42_config_decoder.md). -/

/-- R120, R64: `dataReady` is the negation of bit 7. -/
def Obligations.DrdyNegatesBitSeven : Prop :=
  ∀ (s : State) (c : Byte), exec (.drdy c) s = .next { s with result := .dataReady (!c.getLsbD 7) }

/-- R121, R65: `mode` is Single when bit 4 is 1, else Continuous. -/
def Obligations.ModeIsBitFour : Prop :=
  ∀ (s : State) (c : Byte),
    exec (.mode c) s =
      .next { s with result := .mode (if c.getLsbD 4 = true then .single else .continuous) }

/-- R122, R66: the ordinal is `2*config_byte[3] + config_byte[2]`, and it is the index into SPS15, SPS30,
SPS60, SPS240, that is 15, 30, 60, 240 samples per second. -/
def Obligations.RateIsPositional : Prop :=
  ∀ (s : State) (c : Byte),
    ∃ ord d, ord = 2 * (c.getLsbD 3).toNat + (c.getLsbD 2).toNat ∧
      [DataRate.sps15, .sps30, .sps60, .sps240][ord]? = some d ∧
      [15, 30, 60, 240][ord]? = some (samplesPerSecond d) ∧
      exec (.rate c) s = .next { s with result := .rate ord d }

/-- R67: the ordinal is `2 * config_byte[1] + config_byte[0]`, and goes through the sparse mapping 0 to X1,
1 to X2, 2 to X4, 3 to Unknown, with factors 1, 2, 4 and none. -/
def Obligations.GainIsSparse : Prop :=
  ∀ (s : State) (c : Byte),
    ∃ ord g, ord = 2 * (c.getLsbD 1).toNat + (c.getLsbD 0).toNat ∧
      [GainAmp.x1, .x2, .x4, .unknown][ord]? = some g ∧
      [some 1, some 2, some 4, none][ord]? = some (gainFactor g) ∧
      exec (.gain c) s = .next { s with result := .gain ord g }

/-- 42_config_decoder.md section 2: GAINMAP sends the underlying values 0, 1, 2, 4 to their members and every
other code to Unknown. The codes above 3 are the spec's own reading (D17). -/
def Obligations.GainMapSendsUnmappedToUnknown : Prop :=
  ∀ (s : State) (code : Nat),
    ∃ g, exec (.gainMap code) s = .next { s with result := .gainMap g } ∧
      (g ≠ .unknown → gainValue g = some code) ∧
      (g = .unknown ↔ code ≠ 0 ∧ code ≠ 1 ∧ code ≠ 2 ∧ code ≠ 4)

/-- 42_config_decoder.md section 2: RSVD is 1 exactly when bits 1 and 0 are both 1, that is when GAIN of the
byte is Unknown. The separate bit is the spec's own port (D12). -/
def Obligations.RsvdReportsUnknownGain : Prop :=
  ∀ (s : State) (c : Byte),
    ∃ ord g b, exec (.rsvd c) s = .next { s with result := .rsvd b } ∧
      exec (.gain c) s = .next { s with result := .gain ord g } ∧
      b = (c.getLsbD 1 && c.getLsbD 0) ∧ (b = true ↔ g = .unknown)

/-- 42_config_decoder.md section 3: DECODE returns what SCALE and the field decoders return for its operands,
each in its own place. The bit rsvd is the spec's own port (D12). -/
def Obligations.DecodeComposesTheFieldDecoders : Prop :=
  ∀ (s : State) (high low c : Byte),
    ∃ r ready m ord d gord g b,
      exec (.decode high low c) s = .next { s with result := .decoded ⟨r, ⟨ready, m, d, g⟩, b⟩ } ∧
      r.toRat = (high.toNat : Rat) * 16 + (low.toNat : Rat) / 16 ∧
      exec (.scale high low) s = .next { s with result := .reading r } ∧
      exec (.drdy c) s = .next { s with result := .dataReady ready } ∧
      exec (.mode c) s = .next { s with result := .mode m } ∧
      exec (.rate c) s = .next { s with result := .rate ord d } ∧
      exec (.gain c) s = .next { s with result := .gain gord g } ∧
      exec (.rsvd c) s = .next { s with result := .rsvd b }

/-- R128: each result field of DECODE depends only on its own bits, so bits 6 and 5 change nothing. -/
def Obligations.DecodeFieldsAreIndependent : Prop :=
  ∀ (s : State) (high low c high' low' c' : Byte),
    ∃ d d', exec (.decode high low c) s = .next { s with result := .decoded d } ∧
      exec (.decode high' low' c') s = .next { s with result := .decoded d' } ∧
      (high = high' → low = low' → d.reading = d'.reading) ∧
      (c.getLsbD 7 = c'.getLsbD 7 → d.cfg.dataReady = d'.cfg.dataReady) ∧
      (c.getLsbD 4 = c'.getLsbD 4 → d.cfg.mode = d'.cfg.mode) ∧
      (c.getLsbD 3 = c'.getLsbD 3 → c.getLsbD 2 = c'.getLsbD 2 → d.cfg.dataRate = d'.cfg.dataRate) ∧
      (c.getLsbD 1 = c'.getLsbD 1 → c.getLsbD 0 = c'.getLsbD 0 →
        d.cfg.gainAmp = d'.cfg.gainAmp ∧ d.rsvd = d'.rsvd)

/-- 42_config_decoder.md section 3: the map from frames to results is 4-to-1: two frames decode to equal
results exactly when they differ at most in bits 6 and 5 of the configuration byte. -/
def Obligations.DecodeForgetsOnlyUnusedBits : Prop :=
  ∀ (s : State) (high low c high' low' c' : Byte),
    ∃ d d', exec (.decode high low c) s = .next { s with result := .decoded d } ∧
      exec (.decode high' low' c') s = .next { s with result := .decoded d' } ∧
      (d = d' ↔ high = high' ∧ low = low' ∧ c &&& 0x9F#8 = c' &&& 0x9F#8)

/-- 30_encoding.md section 3: the two forms of each decoder operand, bit buffer and shift-and-mask, are equal
for every configuration byte. The offsets are the spec's own reading (D5). -/
def Obligations.OperandFormsAgree : Prop :=
  ∀ c : Byte, (readyLow c).toNat = readyLowShift c ∧ (modeBit c).toNat = modeBitShift c ∧
    rateOrdinal c = rateOrdinalShift c ∧ gainOrdinal c = gainOrdinalShift c

/-- 30_encoding.md, formats F-CFGOUT and F-READING: what the output ports carry after DECODE. The list of ports
and their codes are the spec's own decisions (D2, D6, D9 to D12); that a port of another operation is not driven,
and shown as none, is the model's choice (log entry 20). -/
def Obligations.DecodeDrivesThePorts : Prop :=
  ∀ (s : State) (high low c : Byte),
    ∃ r, exec (.decode high low c) s = .next { s with result := r } ∧
      r.ports = { readingQ := some (high ++ low)
                  dataReady := some (BitVec.ofBool (!c.getLsbD 7))
                  mode := some (c.extractLsb' 4 1)
                  rateOrd := some (c.extractLsb' 2 2)
                  gainCode := some (if c.extractLsb' 0 2 = 3#2 then 7#3 else 0#1 ++ c.extractLsb' 0 2)
                  rsvd := some (BitVec.ofBool (c.getLsbD 1 && c.getLsbD 0))
                  readOk := none
                  encByte := none
                  encOk := none
                  extValue := none
                  bufOut := none }

/-- 30_encoding.md, formats F-CFGOUT and F-READING: SCALE and each field decoder drive the port of their own
result with the code DECODE drives it with; GAINMAP's code is the declared value or 7. The list of ports, their
codes and GAINMAP above 2 are the spec's own decisions (D2, D6, D9 to D12, D17); that an operation that returns one
field drives that port alone, the others shown as none, is the model's choice (log entry 20). -/
def Obligations.FieldDecodersDriveTheirPort : Prop :=
  ∀ (s : State) (high low c : Byte) (code : Nat),
    ∃ reading ready m d g gm b : Result,
      (exec (.scale high low) s = .next { s with result := reading } ∧
        reading.ports = { Result.idle.ports with readingQ := some (high ++ low) }) ∧
      (exec (.drdy c) s = .next { s with result := ready } ∧
        ready.ports = { Result.idle.ports with dataReady := some (BitVec.ofBool (!c.getLsbD 7)) }) ∧
      (exec (.mode c) s = .next { s with result := m } ∧
        m.ports = { Result.idle.ports with mode := some (c.extractLsb' 4 1) }) ∧
      (exec (.rate c) s = .next { s with result := d } ∧
        d.ports = { Result.idle.ports with rateOrd := some (c.extractLsb' 2 2) }) ∧
      (exec (.gain c) s = .next { s with result := g } ∧
        g.ports = { Result.idle.ports with
          gainCode := some (if c.extractLsb' 0 2 = 3#2 then 7#3 else 0#1 ++ c.extractLsb' 0 2) }) ∧
      (exec (.gainMap code) s = .next { s with result := gm } ∧
        gm.ports = { Result.idle.ports with
          gainCode := some (if code ∈ [0, 1, 2, 4] then BitVec.ofNat 3 code else 7#3) }) ∧
      (exec (.rsvd c) s = .next { s with result := b } ∧
        b.ports = { Result.idle.ports with rsvd := some (BitVec.ofBool (c.getLsbD 1 && c.getLsbD 0)) }) ∧
      Result.idle.ports = { readingQ := none, dataReady := none, mode := none, rateOrd := none, gainCode := none,
                            rsvd := none, readOk := none, encByte := none, encOk := none, extValue := none,
                            bufOut := none }

/-! The case rows (spec/30_encoding.md R73). -/

/-- 30_encoding.md section 4: within one field exactly one case row matches any byte, and the decoder takes a
byte on a case row exactly when the row matches it. That a case row is read as an operation (DEDUCED), and that a byte
of another case is rejected as caseMismatch (DESIGN CHOICE), is the model's (log entry 11); the form of a request is
the model's too (log entry 3). -/
def Obligations.OneCaseRowPerFieldMatches : Prop :=
  ∀ c : Byte,
    (drdyRows.filter (fun r => r.selects c)).length = 1 ∧
    (modeRows.filter (fun r => r.selects c)).length = 1 ∧
    (rateRows.filter (fun r => r.selects c)).length = 1 ∧
    (gainRows.filter (fun r => r.selects c)).length = 1 ∧
    ∀ r ∈ drdyRows ++ modeRows ++ rateRows ++ gainRows,
      (r.selects c = true → ∃ i, decode ⟨r.op, [.byte c]⟩ = .ok i ∧ encode i = ⟨r.op, [.byte c]⟩) ∧
      (r.selects c = false → decode ⟨r.op, [.byte c]⟩ = .error .caseMismatch)

/-- 30_encoding.md section 2: the case rows of DRDY and MODE return their row's value, which is what DRDY and
MODE return for the same byte. That a case row is an operation of its own is the model's choice (log entry 11). -/
def Obligations.DrdyAndModeCaseRowsAgree : Prop :=
  ∀ (s : State) (low7 : BitVec 7) (high3 : BitVec 3) (low4 : BitVec 4),
    (exec (.drdyReady low7) s = .next { s with result := .dataReady true } ∧
      exec (.drdy (0#1 ++ low7)) s = .next { s with result := .dataReady true }) ∧
    (exec (.drdyNotReady low7) s = .next { s with result := .dataReady false } ∧
      exec (.drdy (1#1 ++ low7)) s = .next { s with result := .dataReady false }) ∧
    (exec (.modeContinuous high3 low4) s = .next { s with result := .mode .continuous } ∧
      exec (.mode (high3 ++ 0#1 ++ low4)) s = .next { s with result := .mode .continuous }) ∧
    (exec (.modeSingle high3 low4) s = .next { s with result := .mode .single } ∧
      exec (.mode (high3 ++ 1#1 ++ low4)) s = .next { s with result := .mode .single })

/-- 30_encoding.md section 2: the case rows of RATE return their row's ordinal and data rate, which is what
RATE returns for the same byte. That a case row is an operation is the model's choice (log entry 11). -/
def Obligations.RateCaseRowsAgree : Prop :=
  ∀ (s : State) (high : BitVec 4) (low : BitVec 2),
    (exec (.rateSps15 high low) s = .next { s with result := .rate 0 .sps15 } ∧
      exec (.rate (high ++ 0#2 ++ low)) s = .next { s with result := .rate 0 .sps15 }) ∧
    (exec (.rateSps30 high low) s = .next { s with result := .rate 1 .sps30 } ∧
      exec (.rate (high ++ 1#2 ++ low)) s = .next { s with result := .rate 1 .sps30 }) ∧
    (exec (.rateSps60 high low) s = .next { s with result := .rate 2 .sps60 } ∧
      exec (.rate (high ++ 2#2 ++ low)) s = .next { s with result := .rate 2 .sps60 }) ∧
    (exec (.rateSps240 high low) s = .next { s with result := .rate 3 .sps240 } ∧
      exec (.rate (high ++ 3#2 ++ low)) s = .next { s with result := .rate 3 .sps240 })

/-- 30_encoding.md section 2: the case rows of GAIN return their row's ordinal, gain and reserved flag, which
are what GAIN and RSVD return for the same byte. That a case row is an operation is the model's choice (log
entry 11). -/
def Obligations.GainCaseRowsAgree : Prop :=
  ∀ (s : State) (high : BitVec 6),
    (exec (.gainX1 high) s = .next { s with result := .gainCase 0 .x1 false } ∧
      exec (.gain (high ++ 0#2)) s = .next { s with result := .gain 0 .x1 } ∧
      exec (.rsvd (high ++ 0#2)) s = .next { s with result := .rsvd false }) ∧
    (exec (.gainX2 high) s = .next { s with result := .gainCase 1 .x2 false } ∧
      exec (.gain (high ++ 1#2)) s = .next { s with result := .gain 1 .x2 } ∧
      exec (.rsvd (high ++ 1#2)) s = .next { s with result := .rsvd false }) ∧
    (exec (.gainX4 high) s = .next { s with result := .gainCase 2 .x4 false } ∧
      exec (.gain (high ++ 2#2)) s = .next { s with result := .gain 2 .x4 } ∧
      exec (.rsvd (high ++ 2#2)) s = .next { s with result := .rsvd false }) ∧
    (exec (.gainUnknown high) s = .next { s with result := .gainCase 3 .unknown true } ∧
      exec (.gain (high ++ 3#2)) s = .next { s with result := .gain 3 .unknown } ∧
      exec (.rsvd (high ++ 3#2)) s = .next { s with result := .rsvd true })

/-! The configuration encoder (spec/43_config_encoder.md). -/

/-- 43_config_encoder.md: ENCODE of X1, X2, X4 gives the byte `r00mddgg`, r the negation of dataReady; ENCODE
of X8 and Unknown gives None; it changes nothing else. The byte's unused bits, its polarity and the two Nones
are the spec's own decisions (D20, D21, D22); the truncation switch is off (log entry 14). -/
def Obligations.EncodePlacesTheFields : Prop :=
  ∀ (s : State) (ready : Bool) (m : Mode) (d : DataRate),
    (∀ g v, (g = .x1 ∧ v = 0#2) ∨ (g = .x2 ∧ v = 1#2) ∨ (g = .x4 ∧ v = 2#2) →
      exec (.encode ⟨ready, m, d, g⟩) s =
        .next { s with result := .encoded (some
          (BitVec.ofBool (!ready) ++ 0#2 ++ BitVec.ofBool (decide (m = .single)) ++
            (match d with
              | .sps15 => 0#2
              | .sps30 => 1#2
              | .sps60 => 2#2
              | .sps240 => 3#2) ++ v)) }) ∧
    exec (.encode ⟨ready, m, d, .x8⟩) s = .next { s with result := .encoded none } ∧
    exec (.encode ⟨ready, m, d, .unknown⟩) s = .next { s with result := .encoded none }

/-- 43_config_encoder.md, laws E1 and E4: an encodable Configuration comes back from its byte with rsvd 0, and
no other Configuration has that byte. It rests on the spec's own decisions D20, D21, D22. -/
def Obligations.EncodeThenDecodeReturnsConfiguration : Prop :=
  ∀ (s : State) (cfg : Configuration) (high low : Byte), cfg.gainAmp ≠ .x8 → cfg.gainAmp ≠ .unknown →
    ∃ b d, exec (.encode cfg) s = .next { s with result := .encoded (some b) } ∧
      exec (.decode high low b) s = .next { s with result := .decoded d } ∧ d.cfg = cfg ∧ d.rsvd = false ∧
      ∀ cfg', exec (.encode cfg') s = .next { s with result := .encoded (some b) } → cfg' = cfg

/-- 43_config_encoder.md, laws E2 and E3: a byte comes back from its Configuration with bits 6 and 5 cleared,
and a byte with bits 1 and 0 both 1 has gain Unknown and is not encoded. It rests on the spec's own decisions
D20, D21, D22. -/
def Obligations.DecodeThenEncodeClearsUnusedBits : Prop :=
  ∀ (s : State) (high low b : Byte),
    ∃ d, exec (.decode high low b) s = .next { s with result := .decoded d } ∧
      (b &&& 0x03#8 ≠ 0x03#8 →
        exec (.encode d.cfg) s = .next { s with result := .encoded (some (b &&& 0x9F#8)) }) ∧
      (b &&& 0x03#8 = 0x03#8 → d.cfg.gainAmp = .unknown ∧
        exec (.encode d.cfg) s = .next { s with result := .encoded none })

/-- 10_state.md section 2 (flag enc_ok) and 43_config_encoder.md: ENCODE from its input ports to its output ports.
Every four port codes are a Configuration; with gain code 0, 1 or 2 enc_ok is 1 and enc_byte is `r00mddgg`, r the
negation of enc_data_ready; with any other gain code enc_ok is 0 and there is no enc_byte. The ports, their codes, the
unused bits, the refused gains and the polarity are the spec's own decisions (D2, D9 to D11, D20 to D22); the
request's form, the truncation switch off and the undriven ports shown as none are the model's choices (log entries 3,
14 and 20). -/
def Obligations.EncodeDrivesThePorts : Prop :=
  ∀ (s : State) (ready m : BitVec 1) (d : BitVec 2) (g : BitVec 3),
    ∃ (cfg : Configuration) (r : Result),
      decode ⟨.encode, [.nat ready.toNat, .nat m.toNat, .nat d.toNat, .nat g.toNat]⟩ = .ok (.encode cfg) ∧
      exec (.encode cfg) s = .next { s with result := r } ∧
      (g ≤ 2#3 → r.encOkOf = some true ∧
        r.encByteOf = some (~~~ready ++ 0#2 ++ m ++ d ++ g.extractLsb' 0 2)) ∧
      (2#3 < g → r.encOkOf = some false ∧ r.encByteOf = none) ∧
      r.ports = { readingQ := none, dataReady := none, mode := none, rateOrd := none, gainCode := none,
                  rsvd := none, readOk := none,
                  encByte := if g ≤ 2#3 then some (~~~ready ++ 0#2 ++ m ++ d ++ g.extractLsb' 0 2) else none
                  encOk := some (BitVec.ofBool (decide (g ≤ 2#3)))
                  extValue := none, bufOut := none }

/-! The transport boundary (spec/44_transport_read.md). -/

/-- 44_transport_read.md, INIT: ADDR goes out, the transport's answer comes back unchanged, and nothing is
stored. Where State lists no answer it is a free one. The lists of answers are the model's choice (log entry 8). -/
def Obligations.InitReturnsTheAnswer : Prop :=
  ∀ s : State,
    (∀ a rest, s.initAnswers = a :: rest →
      exec .init s = .next { s with initAnswers := rest, calls := .init s.addr :: s.calls,
                                    result := .initOk a }) ∧
    (s.initAnswers = [] →
      exec .init s = .next { s with draws := s.draws + 1, calls := .init s.addr :: s.calls,
                                    result := .initOk (Config.freeInit s.draws) })

/-- 44_transport_read.md, READTXN: ADDR and the count 3 go out, the transport's answer comes back. Where State
lists no answer it is a free one. The lists of answers are the model's choice (log entry 8). -/
def Obligations.ReadTxnReturnsTheAnswer : Prop :=
  ∀ s : State,
    (∀ a rest, s.txnAnswers = a :: rest →
      exec .readTxn s = .next { s with txnAnswers := rest, calls := .readTxn s.addr 3 :: s.calls,
                                       result := .txn a }) ∧
    (s.txnAnswers = [] →
      exec .readTxn s = .next { s with draws := s.draws + 1, calls := .readTxn s.addr 3 :: s.calls,
                                       result := .txn (Config.freeTxn s.draws) })

/-- 44_transport_read.md, READ: exactly one READTXN, then DECODE of bytes[0], bytes[1], bytes[2] on success
with 3 bytes, and None on every other answer. It holds for listed and for free answers. The byte order and the
None for a success of another length are the spec's own decisions (D4, D32). -/
def Obligations.ReadIsOneReadTxnThenDecode : Prop :=
  ∀ s : State, ∃ t a, exec .readTxn s = .next t ∧ t.result = .txn a ∧
    t.calls = .readTxn s.addr 3 :: s.calls ∧
    (∀ high low config, a = ⟨[high, low, config], true⟩ →
      ∃ d, exec (.decode high low config) t = .next { t with result := .decoded d } ∧
        exec .read s = .next { t with result := .read (some d) }) ∧
    (¬(a.success = true ∧ a.bytes.length = 3) → exec .read s = .next { t with result := .read none })

/-- 60_exceptions.md section 1: a READ either reports read_ok with a Reading, a Configuration and the flag
rsvd, which is 1 exactly when the gain of that Configuration is Unknown, or reports not read_ok and gives no data at
all, so never both error classes. That no data is defined then is the spec's own decision (D23), and so is the bit
rsvd (D12); that READ returns the flags dataReady and rsvd is DEDUCED (log entry 13). -/
def Obligations.FailedReadYieldsNoData : Prop :=
  ∀ s : State, ∃ t, exec .read s = .next t ∧
    ((∃ d : Decoded, t.result = .read (some d) ∧ t.result.readOkOf = some true ∧
        t.result.readingOf = some d.reading ∧ t.result.dataReadyOf = some d.cfg.dataReady ∧
        t.result.modeOf = some d.cfg.mode ∧ t.result.dataRateOf = some d.cfg.dataRate ∧
        t.result.gainAmpOf = some d.cfg.gainAmp ∧ t.result.rsvdOf = some d.rsvd ∧
        (d.rsvd = true ↔ d.cfg.gainAmp = .unknown)) ∨
      (t.result = .read none ∧ t.result.readOkOf = some false ∧ t.result.readingOf = none ∧
        t.result.dataReadyOf = none ∧ t.result.modeOf = none ∧ t.result.dataRateOf = none ∧
        t.result.gainAmpOf = none ∧ t.result.rsvdOf = none))

/-- 44_transport_read.md, READ, on the output ports: on success with 3 bytes read_ok is 1 and the other ports carry
what DECODE of those bytes drives; on every other answer read_ok is 0 and no data port has a value. The ports and
their codes, the byte order, the data ports of a failed read and the byte count are the spec's own decisions (D2, D6,
D9 to D12, D4, D23, D32); that READ drives data_ready and rsvd is DEDUCED (log entry 13), and the answers held in
State and the undriven ports shown as none are the model's choices (log entries 8 and 20). -/
def Obligations.ReadDrivesThePorts : Prop :=
  ∀ s : State, ∃ (t : State) (a : TxnAnswer) (r : Result),
    exec .readTxn s = .next t ∧ t.result = .txn a ∧ exec .read s = .next { t with result := r } ∧
    (∀ high low config, a = ⟨[high, low, config], true⟩ →
      r.ports = { readingQ := some (high ++ low)
                  dataReady := some (BitVec.ofBool (!config.getLsbD 7))
                  mode := some (config.extractLsb' 4 1)
                  rateOrd := some (config.extractLsb' 2 2)
                  gainCode := some (if config.extractLsb' 0 2 = 3#2 then 7#3 else 0#1 ++ config.extractLsb' 0 2)
                  rsvd := some (BitVec.ofBool (config.getLsbD 1 && config.getLsbD 0))
                  readOk := some 1#1
                  encByte := none
                  encOk := none
                  extValue := none
                  bufOut := none }) ∧
    (¬(a.success = true ∧ a.bytes.length = 3) →
      r.ports = { readingQ := none, dataReady := none, mode := none, rateOrd := none, gainCode := none,
                  rsvd := none, readOk := some 0#1, encByte := none, encOk := none, extValue := none,
                  bufOut := none })

/-- R153: the block performs no write transaction: whatever the operation, the only messages across the
boundary are INIT's and one READTXN of READTXN or READ. -/
def Obligations.OnlyInitAndReadTxnCross : Prop :=
  ∀ (i : Instr) (s t : State), exec i s = .next t →
    (i = .init ∧ t.calls = .init s.addr :: s.calls) ∨
    ((i = .readTxn ∨ i = .read) ∧ t.calls = .readTxn s.addr 3 :: s.calls) ∨
    (i ≠ .init ∧ i ≠ .readTxn ∧ i ≠ .read ∧ t.calls = s.calls)

/-! The whole machine. -/

/-- R20: what an operation returns, and what it does to the caller's buffers, does not depend on anything an
earlier operation returned: two invocations with equal operands (the same buffers, the same answers of the
transport) return equal results, whatever the earlier results, messages, address and waiting invocations. -/
def Obligations.NoOperationSeesEarlierResults : Prop :=
  ∀ (i : Instr) (s s' : State), s.bufs = s'.bufs → s.initAnswers = s'.initAnswers →
    s.txnAnswers = s'.txnAnswers → s.draws = s'.draws →
    (∃ t t', exec i s = .next t ∧ exec i s' = .next t' ∧ t.result = t'.result ∧ t.bufs = t'.bufs) ∨
    (∃ r, exec i s = .refused r ∧ exec i s' = .refused r)

/-- 10_state.md section 4 and 20_memory.md section 3: no operation but PACK on a buffer of the caller changes
a buffer, PACK changes only that buffer, and no buffer's length ever changes. -/
def Obligations.OnlyPackChangesItsBuffer : Prop :=
  ∀ (i : Instr) (s t : State), exec i s = .next t →
    ((∀ value k off len, i ≠ .pack value (.caller k) off len) → t.bufs = s.bufs) ∧
    (∀ value k off len, i = .pack value (.caller k) off len →
      ∀ j, j ≠ k → Memory.get t.bufs j = Memory.get s.bufs j) ∧
    ∀ j, (Memory.get t.bufs j).length = (Memory.get s.bufs j).length

/-- 42_config_decoder.md section 3, 40_bitfield_codec.md and 60_exceptions.md section 1: every operation answers
a next state, but for EXTRACT and PACK out of contract and EXTRACTFIELD and PACKFIELD out of range (the spec's
own decisions D13, D14, D31), which are refused. -/
def Obligations.EveryOperationRunsInContract : Prop :=
  ∀ (i : Instr) (s : State),
    (∃ t, exec i s = .next t) ↔
      ((∀ b off len, i = .extract b off len → 1 ≤ len ∧ len ≤ 32 ∧ off + len ≤ (s.cells b).length) ∧
       (∀ v b off len, i = .pack v b off len → 1 ≤ len ∧ len ≤ 32 ∧ off + len ≤ (s.cells b).length) ∧
       (∀ c startBit width, i = .extractField c startBit width → 1 ≤ width ∧ startBit + width ≤ 8) ∧
       (∀ v startBit width, i = .packField v startBit width → 1 ≤ width ∧ startBit + width ≤ 8))

/-- 20_memory.md section 5 and 10_state.md R32: a step runs the caller's next waiting invocation, with the
rest still waiting; a request that presents none is refused; with none waiting nothing happens. The list of
waiting requests is the model's choice (log entries 2 and 3). -/
def Obligations.StepRunsTheNextInvocation : Prop :=
  ∀ s : State,
    (s.pending = [] → step s = .next s) ∧
    (∀ r rest i, s.pending = r :: rest → decode r = .ok i → step s = exec i { s with pending := rest }) ∧
    (∀ r rest e, s.pending = r :: rest → decode r = .error e → step s = .refused (.badRequest e))

/-- 10_state.md section 4: the device handle's address is immutable; and 20_memory.md section 5: a step takes
the first waiting invocation, in the caller's order, and with none waiting takes none (the list stays empty). The list
of waiting invocations, and the idle step on an empty one, are the model's choice (log entry 2). -/
def Obligations.StepKeepsAddressAndOrder : Prop :=
  ∀ s t : State, step s = .next t → t.addr = s.addr ∧ t.pending = s.pending.tail

/-- The invariant holds right after reset. The reset values are the model's choice (log entries 5 and 10). -/
def Obligations.ResetMeetsTheInvariant : Prop := State.reset.Inv

/-- 00_scope.md section 5 (domains), 40_bitfield_codec.md, 42_config_decoder.md and 43_config_encoder.md
(ranges of results): every step keeps the caller's buffers in canonical form and returns a result in its range:
a Reading W/16 with W <= 65535, never the gain X8 from DECODE, rsvd exactly with Unknown, an EXTRACT below 2^32,
an encoded byte with bits 6 and 5 zero and never both low bits 1. The canonical form is the model's own (log
entry 5). -/
def Obligations.StepKeepsTheInvariant : Prop :=
  ∀ s t : State, s.Inv → step s = .next t → t.Inv

/-! Requests. -/

/-- 30_encoding.md sections 1, 3 and 4: decoding the request that presents a well-formed invocation gives it
back, every operand at every value. The request's form is the model's choice (log entry 3). -/
def Obligations.DecodeOfEncode : Prop := ∀ i : Instr, i.wf = true → decode (encode i) = .ok i

/-- 30_encoding.md section 2 (port codes, D9): a request that presents an invocation is the one request that
does, but for ENCODE's gain codes 3, 5 and 6, which are read as Unknown, code 7. The request's form is the
model's choice (log entry 3). -/
def Obligations.EncodeOfDecode : Prop :=
  ∀ (r : Request) (i : Instr), decode r = .ok i →
    encode i = r ∨
    ∃ a b c g, r = ⟨.encode, [.nat a, .nat b, .nat c, .nat g]⟩ ∧ (g = 3 ∨ g = 5 ∨ g = 6) ∧
      encode i = ⟨.encode, [.nat a, .nat b, .nat c, .nat 7]⟩

/-- 30_encoding.md section 2: operands written out bit by bit from the formats decode to their invocation, and
a byte of another case does not. The bits are the formats'; the rest is the model's: the request's form is its choice
(log entry 3), that a case row is an operation and another case's byte is rejected its reading and choice (log entry
11), and that the bare 24-bit word of the last clause goes to DECODE its choice (log entry 4; no word selects an
operation, D3). -/
def Obligations.SampleRequestsDecode : Prop :=
  decode ⟨.decode, [.byte 0b00010010#8, .byte 0b00110100#8, .byte 0b00011110#8]⟩ =
      .ok (.decode 0x12 0x34 0x1E) ∧
    decode ⟨.encode, [.nat 0, .nat 1, .nat 2, .nat 1]⟩ = .ok (.encode ⟨false, .single, .sps60, .x2⟩) ∧
    decode ⟨.rateSps60, [.byte 0b10111010#8]⟩ = .ok (.rateSps60 0b1011 0b10) ∧
    decode ⟨.gainUnknown, [.byte 0b10011111#8]⟩ = .ok (.gainUnknown 0b100111) ∧
    decode ⟨.drdyReady, [.byte 0x80#8]⟩ = .error .caseMismatch ∧
    decodeTableWord 24 0x12341E = some (.decode 0x12 0x34 0x1E)
end

