-- ==== Sys2Proof/Laws/Codec.lean ====
section
/-! SUPPORT. What the cells of a buffer, the codec's two loops and the contract do, each said once. -/

namespace Sys2Proof.Machine

/-- Reading a cell is reading the list at its offset. -/
theorem bufRead_eq_getD (cs : Cells) (k : Nat) : bufRead cs k = cs.getD k false := by
  induction cs generalizing k with
  | nil => rfl
  | cons b cs ih => cases k <;> simp [bufRead, ih]

@[simp] theorem length_bufWrite (cs : Cells) (k : Nat) (v : Bit) : (bufWrite cs k v).length = cs.length := by
  induction cs generalizing k with
  | nil => rfl
  | cons b cs ih => cases k <;> simp [bufWrite, ih]

theorem bufRead_bufWrite_same (cs : Cells) (k : Nat) (v : Bit) (h : k < cs.length) :
    bufRead (bufWrite cs k v) k = v := by
  induction cs generalizing k with
  | nil => simp at h
  | cons b cs ih =>
    cases k with
    | zero => rfl
    | succ k => simpa [bufWrite, bufRead] using ih k (by simpa using h)

theorem bufRead_bufWrite_other (cs : Cells) (k j : Nat) (v : Bit) (h : j ≠ k) :
    bufRead (bufWrite cs k v) j = bufRead cs j := by
  induction cs generalizing k j with
  | nil => rfl
  | cons b cs ih =>
    cases k <;> cases j <;> simp_all [bufWrite, bufRead]

@[simp] theorem length_packBits (value : Nat) (buf : Cells) (off n : Nat) :
    (packBits value buf off n).length = buf.length := by
  induction n generalizing buf off with
  | zero => rfl
  | succ n ih => simp [packBits, ih]

/-- What PACK leaves alone: every cell outside its field. -/
theorem bufRead_packBits_outside (value : Nat) (buf : Cells) (off n j : Nat) (h : j < off ∨ off + n ≤ j) :
    bufRead (packBits value buf off n) j = bufRead buf j := by
  induction n generalizing buf off with
  | zero => rfl
  | succ n ih =>
    rw [packBits, ih _ _ (by omega), bufRead_bufWrite_other _ _ _ _ (by omega)]

/-- What PACK writes: cell i of the field takes bit length-1-i of the value. -/
theorem bufRead_packBits_inside (value : Nat) (buf : Cells) (off n i : Nat) (hi : i < n)
    (hN : off + n ≤ buf.length) :
    bufRead (packBits value buf off n) (off + i) = value.testBit (n - 1 - i) := by
  induction n generalizing buf off i with
  | zero => omega
  | succ n ih =>
    rw [packBits]
    cases i with
    | zero =>
      rw [bufRead_packBits_outside _ _ _ _ _ (by omega), Nat.add_zero, bufRead_bufWrite_same _ _ _ (by omega)]
      simp
    | succ i =>
      have h := ih (bufWrite buf off (value.testBit n)) (off + 1) i (by omega) (by simp; omega)
      rw [show off + (i + 1) = off + 1 + i by omega, h]
      congr 1
      omega

/-- Two buffers of one length that agree in every cell are one buffer. -/
theorem cells_ext (a b : Cells) (hl : a.length = b.length)
    (h : ∀ k, k < a.length → bufRead a k = bufRead b k) : a = b := by
  induction a generalizing b with
  | nil => cases b <;> simp_all
  | cons x a ih =>
    cases b with
    | nil => simp at hl
    | cons y b =>
      have h0 : x = y := h 0 (by simp)
      rw [h0, ih b (by simpa using hl) fun k hk => h (k + 1) (by simpa using hk)]

/-- The loop's accumulator carries the weight of the cells still to come. -/
theorem extractLoop_acc (buf : Cells) (off n acc : Nat) :
    extractLoop buf off n acc = acc * 2 ^ n + extractBits buf off n := by
  induction n generalizing off acc with
  | zero => simp [extractLoop, extractBits]
  | succ n ih =>
    rw [extractBits, extractLoop, extractLoop, ih, ih (acc := 2 * 0 + _)]
    ring

/-- The first cell of a field is its most significant bit. -/
theorem extractBits_succ (buf : Cells) (off n : Nat) :
    extractBits buf off (n + 1) = (bufRead buf off).toNat * 2 ^ n + extractBits buf (off + 1) n := by
  rw [extractBits, extractLoop, extractLoop_acc]
  simp

/-- A field of n cells is below 2^n. -/
theorem extractBits_lt (buf : Cells) (off n : Nat) : extractBits buf off n < 2 ^ n := by
  induction n generalizing off with
  | zero => simp [extractBits, extractLoop]
  | succ n ih =>
    have h := ih (off + 1)
    have hb : (bufRead buf off).toNat ≤ 1 := Bool.toNat_le _
    rw [extractBits_succ, pow_succ]
    nlinarith

theorem lengthOk_iff (length : Nat) : lengthOk length = true ↔ 1 ≤ length ∧ length ≤ 32 := by
  rw [lengthOk, Bool.and_eq_true, decide_eq_true_eq, decide_eq_true_eq]
  exact Iff.rfl

/-- In contract the operation runs. -/
theorem withField_of_contract (cells : Cells) (off len : Nat) (op : Out) (h1 : 1 ≤ len) (h2 : len ≤ 32)
    (h3 : off + len ≤ cells.length) : withField cells off len op = op := by
  rw [withField, if_pos ((lengthOk_iff len).2 ⟨h1, h2⟩), if_pos h3]

/-- A length outside [1, 32] is refused. -/
theorem withField_of_bad_length (cells : Cells) (off len : Nat) (op : Out) (h : len < 1 ∨ 32 < len) :
    withField cells off len op = .refused .lengthOutOfContract := by
  rw [withField, if_neg (by rw [lengthOk_iff]; omega)]

/-- A field past the end of the buffer is refused. -/
theorem withField_of_bad_bounds (cells : Cells) (off len : Nat) (op : Out) (h1 : 1 ≤ len) (h2 : len ≤ 32)
    (h3 : cells.length < off + len) : withField cells off len op = .refused .boundsOutOfContract := by
  rw [withField, if_pos ((lengthOk_iff len).2 ⟨h1, h2⟩), if_neg (by omega)]

/-- Everything the contract can do: the operation runs, or is refused for its length or for its bounds. -/
theorem withField_eq (cells : Cells) (off len : Nat) (op : Out) :
    (1 ≤ len ∧ len ≤ 32 ∧ off + len ≤ cells.length ∧ withField cells off len op = op) ∨
    ((len < 1 ∨ 32 < len) ∧ withField cells off len op = .refused .lengthOutOfContract) ∨
    (1 ≤ len ∧ len ≤ 32 ∧ cells.length < off + len ∧
      withField cells off len op = .refused .boundsOutOfContract) := by
  by_cases h : len < 1 ∨ 32 < len
  · exact .inr (.inl ⟨h, withField_of_bad_length cells off len op h⟩)
  · by_cases h3 : off + len ≤ cells.length
    · exact .inl ⟨by omega, by omega, h3, withField_of_contract cells off len op (by omega) (by omega) h3⟩
    · exact .inr (.inr ⟨by omega, by omega, by omega,
        withField_of_bad_bounds cells off len op (by omega) (by omega) (by omega)⟩)

theorem fieldOk_iff (startBit width : Nat) :
    fieldOk startBit width = true ↔ 1 ≤ width ∧ startBit + width ≤ 8 := by
  simp only [fieldOk, Bool.and_eq_true, decide_eq_true_eq]
  omega

/-- When EXTRACTFIELD and PACKFIELD run, and when they are refused. -/
theorem withinByte_eq (startBit width : Nat) (op : Out) :
    (1 ≤ width ∧ startBit + width ≤ 8 ∧ withinByte startBit width op = op) ∨
    (¬(1 ≤ width ∧ startBit + width ≤ 8) ∧ withinByte startBit width op = .refused .fieldOutOfRange) := by
  unfold withinByte
  split
  · rename_i h
    have h' := (fieldOk_iff _ _).1 h
    exact .inl ⟨h'.1, h'.2, rfl⟩
  · rename_i h
    exact .inr ⟨fun hc => h ((fieldOk_iff _ _).2 hc), rfl⟩

end Sys2Proof.Machine
end

