-- ==== Sys2Proof/Laws/Memory.lean ====
section
/-! SUPPORT. The caller's buffers: read after write, write leaves the others alone, and the canonical form is
kept by every operation on them. -/

namespace Sys2Proof.Machine

theorem Memory.get_set_same (m : Memory) (k : Nat) (c : Cells) (h : Memory.wf m = true) :
    Memory.get (Memory.set m k c) k = c := by
  induction m with
  | nil =>
    cases c <;> simp [Memory.set, Memory.get]
  | cons e m ih =>
    obtain ⟨k0, c0⟩ := e
    simp only [Memory.wf, Bool.and_eq_true, List.all_eq_true, decide_eq_true_eq] at h
    have hm : ∀ k', k' ≤ k0 → Memory.get m k' = [] := by
      intro k' hk'
      have hall := h.1.2
      clear ih h
      induction m with
      | nil => rfl
      | cons e' m' ih' =>
        obtain ⟨k1, c1⟩ := e'
        have h1 := hall (k1, c1) (by simp)
        have hne : k1 ≠ k' := by have : k0 < k1 := h1; omega
        simp only [Memory.get, hne, if_false]
        exact ih' fun x hx => hall x (by simp [hx])
    simp only [Memory.set]
    split
    · rename_i hlt
      split
      · rename_i he
        have hne : k0 ≠ k := by omega
        simp [Memory.get, hne, hm k (by omega), List.isEmpty_iff.1 he]
      · simp [Memory.get]
    · split
      · rename_i heq
        split
        · rename_i he
          rw [hm k (by omega), List.isEmpty_iff.1 he]
        · simp [Memory.get]
      · rename_i hne
        simp only [Memory.get, Ne.symm hne, if_false]
        exact ih h.2

theorem Memory.get_set_other (m : Memory) (k j : Nat) (c : Cells) (h : j ≠ k) :
    Memory.get (Memory.set m k c) j = Memory.get m j := by
  induction m with
  | nil => cases c <;> simp [Memory.set, Memory.get, Ne.symm h]
  | cons e m ih =>
    obtain ⟨k0, c0⟩ := e
    simp only [Memory.set]
    split
    · split <;> simp [Memory.get, Ne.symm h]
    · split
      · rename_i heq
        subst heq
        split <;> simp [Memory.get, Ne.symm h]
      · simp only [Memory.get]
        split
        · rfl
        · exact ih

theorem Memory.all_set (m : Memory) (k b : Nat) (c : Cells) (hb : b < k)
    (h : m.all (fun e => decide (b < e.1)) = true) :
    (Memory.set m k c).all (fun e => decide (b < e.1)) = true := by
  induction m with
  | nil => cases c <;> simp [Memory.set, hb]
  | cons e m ih =>
    obtain ⟨k0, c0⟩ := e
    simp only [List.all_cons, Bool.and_eq_true, decide_eq_true_eq] at h
    simp only [Memory.set]
    split
    · split
      · simp only [List.all_cons, Bool.and_eq_true, decide_eq_true_eq]; exact h
      · simp only [List.all_cons, Bool.and_eq_true, decide_eq_true_eq]; exact ⟨hb, h⟩
    · split
      · split
        · exact h.2
        · simp only [List.all_cons, Bool.and_eq_true, decide_eq_true_eq]; exact ⟨hb, h.2⟩
      · simp only [List.all_cons, Bool.and_eq_true, decide_eq_true_eq]
        exact ⟨h.1, ih h.2⟩

/-- A write keeps the canonical form. -/
theorem Memory.wf_set (m : Memory) (k : Nat) (c : Cells) (h : Memory.wf m = true) :
    Memory.wf (Memory.set m k c) = true := by
  induction m with
  | nil => cases c <;> simp [Memory.set, Memory.wf]
  | cons e m ih =>
    obtain ⟨k0, c0⟩ := e
    have h0 := h
    simp only [Memory.wf, Bool.and_eq_true] at h
    simp only [Memory.set]
    split
    · rename_i hlt
      split
      · exact h0
      · rename_i he
        simp only [Memory.wf, List.all_cons, Bool.and_eq_true, decide_eq_true_eq]
        refine ⟨⟨by simpa using he, hlt, ?_⟩, h⟩
        have := h.1.2
        simp only [List.all_eq_true, decide_eq_true_eq] at this ⊢
        exact fun x hx => lt_trans hlt (this x hx)
    · split
      · rename_i heq
        subst heq
        split
        · exact h.2
        · rename_i he
          simp only [Memory.wf, Bool.and_eq_true]
          exact ⟨⟨by simpa using he, h.1.2⟩, h.2⟩
      · simp only [Memory.wf, Bool.and_eq_true]
        exact ⟨⟨h.1.1, Memory.all_set m k k0 c (by omega) h.1.2⟩, ih h.2⟩

/-- PACK's write keeps the canonical form of the caller's buffers. -/
theorem State.putCells_wf (s : State) (b : BufArg) (c : Cells) (h : Memory.wf s.bufs = true) :
    Memory.wf (s.putCells b c).bufs = true := by
  cases b with
  | lit _ => exact h
  | caller k => exact Memory.wf_set s.bufs k c h

end Sys2Proof.Machine
end

