-- ==== Sys2Proof/Laws/PerInstr.lean ====
section
/-! SUPPORT. Statements about every operation as syntax, one lemma per constructor. -/

namespace Sys2Proof.Laws.PortShape

/-- Each operation has its own unit with its own ports (spec/30_encoding.md R60): the unit a request of this
invocation names, and how many operand ports that unit has (R74, D2). -/
def shape : Instr → Op × Nat
  | .extract _ _ _ => (.extract, 3)
  | .pack _ _ _ _ => (.pack, 4)
  | .extractField _ _ _ => (.extractField, 3)
  | .packField _ _ _ => (.packField, 3)
  | .scale _ _ => (.scale, 2)
  | .drdy _ => (.drdy, 1)
  | .mode _ => (.mode, 1)
  | .rate _ => (.rate, 1)
  | .gain _ => (.gain, 1)
  | .gainMap _ => (.gainMap, 1)
  | .rsvd _ => (.rsvd, 1)
  | .decode _ _ _ => (.decode, 3)
  | .encode _ => (.encode, 4)
  | .init => (.init, 0)
  | .readTxn => (.readTxn, 0)
  | .read => (.read, 0)
  | .drdyReady _ => (.drdyReady, 1)
  | .drdyNotReady _ => (.drdyNotReady, 1)
  | .modeContinuous _ _ => (.modeContinuous, 1)
  | .modeSingle _ _ => (.modeSingle, 1)
  | .rateSps15 _ _ => (.rateSps15, 1)
  | .rateSps30 _ _ => (.rateSps30, 1)
  | .rateSps60 _ _ => (.rateSps60, 1)
  | .rateSps240 _ _ => (.rateSps240, 1)
  | .gainX1 _ => (.gainX1, 1)
  | .gainX2 _ => (.gainX2, 1)
  | .gainX4 _ => (.gainX4, 1)
  | .gainUnknown _ => (.gainUnknown, 1)

/-- The encoder presents an invocation to its own unit, with an operand on each of that unit's ports. -/
def Statement (i : Instr) : Prop := (Sys2Proof.encode i).op = (shape i).1 ∧ (Sys2Proof.encode i).ports.length = (shape i).2

theorem extract (buf : BufArg) (off len : Nat) : Statement (.extract buf off len) := ⟨rfl, rfl⟩
theorem pack (v : Nat) (buf : BufArg) (off len : Nat) : Statement (.pack v buf off len) := ⟨rfl, rfl⟩
theorem extractField (c : Byte) (startBit width : Nat) : Statement (.extractField c startBit width) := ⟨rfl, rfl⟩
theorem packField (v startBit width : Nat) : Statement (.packField v startBit width) := ⟨rfl, rfl⟩
theorem scale (h l : Byte) : Statement (.scale h l) := ⟨rfl, rfl⟩
theorem drdy (c : Byte) : Statement (.drdy c) := ⟨rfl, rfl⟩
theorem mode (c : Byte) : Statement (.mode c) := ⟨rfl, rfl⟩
theorem rate (c : Byte) : Statement (.rate c) := ⟨rfl, rfl⟩
theorem gain (c : Byte) : Statement (.gain c) := ⟨rfl, rfl⟩
theorem gainMap (code : Nat) : Statement (.gainMap code) := ⟨rfl, rfl⟩
theorem rsvd (c : Byte) : Statement (.rsvd c) := ⟨rfl, rfl⟩
theorem decode (h l c : Byte) : Statement (.decode h l c) := ⟨rfl, rfl⟩
theorem encode (cfg : Configuration) : Statement (.encode cfg) := ⟨rfl, rfl⟩
theorem init : Statement .init := ⟨rfl, rfl⟩
theorem readTxn : Statement .readTxn := ⟨rfl, rfl⟩
theorem read : Statement .read := ⟨rfl, rfl⟩
theorem drdyReady (low : BitVec 7) : Statement (.drdyReady low) := ⟨rfl, rfl⟩
theorem drdyNotReady (low : BitVec 7) : Statement (.drdyNotReady low) := ⟨rfl, rfl⟩
theorem modeContinuous (high : BitVec 3) (low : BitVec 4) : Statement (.modeContinuous high low) := ⟨rfl, rfl⟩
theorem modeSingle (high : BitVec 3) (low : BitVec 4) : Statement (.modeSingle high low) := ⟨rfl, rfl⟩
theorem rateSps15 (high : BitVec 4) (low : BitVec 2) : Statement (.rateSps15 high low) := ⟨rfl, rfl⟩
theorem rateSps30 (high : BitVec 4) (low : BitVec 2) : Statement (.rateSps30 high low) := ⟨rfl, rfl⟩
theorem rateSps60 (high : BitVec 4) (low : BitVec 2) : Statement (.rateSps60 high low) := ⟨rfl, rfl⟩
theorem rateSps240 (high : BitVec 4) (low : BitVec 2) : Statement (.rateSps240 high low) := ⟨rfl, rfl⟩
theorem gainX1 (high : BitVec 6) : Statement (.gainX1 high) := ⟨rfl, rfl⟩
theorem gainX2 (high : BitVec 6) : Statement (.gainX2 high) := ⟨rfl, rfl⟩
theorem gainX4 (high : BitVec 6) : Statement (.gainX4 high) := ⟨rfl, rfl⟩
theorem gainUnknown (high : BitVec 6) : Statement (.gainUnknown high) := ⟨rfl, rfl⟩

end Sys2Proof.Laws.PortShape
end

