-- ==== Sys2Proof/Laws/State.lean ====
section
/-! SUPPORT. One lemma per field per update of State, so that no later proof unfolds a record update. -/

namespace Sys2Proof.Machine

@[simp] theorem State.returns_pending (s : State) (r : Result) : (s.returns r).pending = s.pending := rfl
@[simp] theorem State.returns_bufs (s : State) (r : Result) : (s.returns r).bufs = s.bufs := rfl
@[simp] theorem State.returns_addr (s : State) (r : Result) : (s.returns r).addr = s.addr := rfl
@[simp] theorem State.returns_initAnswers (s : State) (r : Result) :
    (s.returns r).initAnswers = s.initAnswers := rfl
@[simp] theorem State.returns_txnAnswers (s : State) (r : Result) :
    (s.returns r).txnAnswers = s.txnAnswers := rfl
@[simp] theorem State.returns_calls (s : State) (r : Result) : (s.returns r).calls = s.calls := rfl
@[simp] theorem State.returns_draws (s : State) (r : Result) : (s.returns r).draws = s.draws := rfl
@[simp] theorem State.returns_result (s : State) (r : Result) : (s.returns r).result = r := rfl

@[simp] theorem State.cells_lit (s : State) (c : Cells) : s.cells (.lit c) = c := rfl
@[simp] theorem State.cells_caller (s : State) (k : Nat) : s.cells (.caller k) = s.bufs.get k := rfl
@[simp] theorem State.cells_returns (s : State) (r : Result) (b : BufArg) :
    (s.returns r).cells b = s.cells b := by cases b <;> rfl

@[simp] theorem State.putCells_lit (s : State) (c d : Cells) : s.putCells (.lit c) d = s := rfl
@[simp] theorem State.putCells_caller_bufs (s : State) (k : Nat) (c : Cells) :
    (s.putCells (.caller k) c).bufs = s.bufs.set k c := rfl
@[simp] theorem State.putCells_pending (s : State) (b : BufArg) (c : Cells) :
    (s.putCells b c).pending = s.pending := by cases b <;> rfl
@[simp] theorem State.putCells_addr (s : State) (b : BufArg) (c : Cells) :
    (s.putCells b c).addr = s.addr := by cases b <;> rfl
@[simp] theorem State.putCells_initAnswers (s : State) (b : BufArg) (c : Cells) :
    (s.putCells b c).initAnswers = s.initAnswers := by cases b <;> rfl
@[simp] theorem State.putCells_txnAnswers (s : State) (b : BufArg) (c : Cells) :
    (s.putCells b c).txnAnswers = s.txnAnswers := by cases b <;> rfl
@[simp] theorem State.putCells_calls (s : State) (b : BufArg) (c : Cells) :
    (s.putCells b c).calls = s.calls := by cases b <;> rfl
@[simp] theorem State.putCells_draws (s : State) (b : BufArg) (c : Cells) :
    (s.putCells b c).draws = s.draws := by cases b <;> rfl
@[simp] theorem State.putCells_result (s : State) (b : BufArg) (c : Cells) :
    (s.putCells b c).result = s.result := by cases b <;> rfl

/-- Everything a call of INIT does: the listed answer is taken off, or a free one is drawn; ADDR is sent. -/
theorem State.callInit_cases (s : State) :
    (∃ a rest, s.initAnswers = a :: rest ∧
      s.callInit = (a, { s with initAnswers := rest, calls := .init s.addr :: s.calls })) ∨
    (s.initAnswers = [] ∧
      s.callInit = (Config.freeInit s.draws,
        { s with draws := s.draws + 1, calls := .init s.addr :: s.calls })) := by
  cases h : s.initAnswers with
  | nil => exact .inr ⟨rfl, by simp [State.callInit, h]⟩
  | cons a rest => exact .inl ⟨a, rest, rfl, by simp [State.callInit, h]⟩

/-- Everything a call of READTXN does: the listed answer is taken off, or a free one is drawn; ADDR and the
count 3 are sent. -/
theorem State.callTxn_cases (s : State) :
    (∃ a rest, s.txnAnswers = a :: rest ∧
      s.callTxn = (a, { s with txnAnswers := rest, calls := .readTxn s.addr 3 :: s.calls })) ∨
    (s.txnAnswers = [] ∧
      s.callTxn = (Config.freeTxn s.draws,
        { s with draws := s.draws + 1, calls := .readTxn s.addr 3 :: s.calls })) := by
  cases h : s.txnAnswers with
  | nil => exact .inr ⟨rfl, by simp [State.callTxn, h, Config.frameBytes]⟩
  | cons a rest => exact .inl ⟨a, rest, rfl, by simp [State.callTxn, h, Config.frameBytes]⟩

@[simp] theorem State.callInit_bufs (s : State) : s.callInit.2.bufs = s.bufs := by
  unfold State.callInit; split <;> rfl
@[simp] theorem State.callInit_pending (s : State) : s.callInit.2.pending = s.pending := by
  unfold State.callInit; split <;> rfl
@[simp] theorem State.callInit_addr (s : State) : s.callInit.2.addr = s.addr := by
  unfold State.callInit; split <;> rfl
@[simp] theorem State.callInit_txnAnswers (s : State) : s.callInit.2.txnAnswers = s.txnAnswers := by
  unfold State.callInit; split <;> rfl
@[simp] theorem State.callInit_calls (s : State) : s.callInit.2.calls = .init s.addr :: s.calls := by
  unfold State.callInit; split <;> rfl
@[simp] theorem State.callInit_result (s : State) : s.callInit.2.result = s.result := by
  unfold State.callInit; split <;> rfl

@[simp] theorem State.callTxn_bufs (s : State) : s.callTxn.2.bufs = s.bufs := by
  unfold State.callTxn; split <;> rfl
@[simp] theorem State.callTxn_pending (s : State) : s.callTxn.2.pending = s.pending := by
  unfold State.callTxn; split <;> rfl
@[simp] theorem State.callTxn_addr (s : State) : s.callTxn.2.addr = s.addr := by
  unfold State.callTxn; split <;> rfl
@[simp] theorem State.callTxn_initAnswers (s : State) : s.callTxn.2.initAnswers = s.initAnswers := by
  unfold State.callTxn; split <;> rfl
@[simp] theorem State.callTxn_calls (s : State) : s.callTxn.2.calls = .readTxn s.addr 3 :: s.calls := by
  unfold State.callTxn; split <;> rfl
@[simp] theorem State.callTxn_result (s : State) : s.callTxn.2.result = s.result := by
  unfold State.callTxn; split <;> rfl

end Sys2Proof.Machine
end

