-- ==== Sys2Proof/Tests/Slice0.lean ====
section
/-! SUPPORT. Tests of one step or one value each. Expected results are spec/95_test_vectors.md's vectors (their ids
stand beside them) or written out from the spec's tables; none is the model's own answer. -/

namespace Sys2Proof.Tests

open Sys2Proof.Machine

/-- Cells from the spec's notation `[b0 b1 ...]`. -/
def bits (l : List Nat) : Cells := l.map (· == 1)

/-- The result an outcome returned, if it gave a next state. -/
def resultOf : Out → Option Result
  | .next t => some t.result
  | .fault _ => none
  | .refused _ => none

/-- The refusal of an outcome. -/
def refusalOf : Out → Option Refusal
  | .next _ => none
  | .fault _ => none
  | .refused r => some r

/-- The caller's buffers after an outcome. -/
def bufsOf : Out → Option Memory
  | .next t => some t.bufs
  | .fault _ => none
  | .refused _ => none

/-- What an operation returns from reset. -/
def returned (i : Instr) : Option Result := resultOf (exec i State.reset)

/-- Reset, but the caller owns buffer 2 with the given cells. -/
def withBuf (c : Cells) : State := { State.reset with bufs := [(2, c)] }

/-- Reset, but the transport will give this answer to READTXN. -/
def withTxn (bytes : List Byte) (success : Bool) : State :=
  { State.reset with txnAnswers := [⟨bytes, success⟩] }

/-! WellFormed: one ill-formed term for each check. -/

theorem test_wf_length_zero : (Instr.extract (.lit (bits [1, 0, 1, 1, 0, 0, 1, 0])) 0 0).wf = false := by decide
theorem test_wf_length_33 : (Instr.pack 0 (.lit (List.replicate 40 false)) 0 33).wf = false := by decide
theorem test_wf_bounds : (Instr.extract (.lit (bits [1, 0, 1, 1, 0, 0, 1, 0])) 7 2).wf = false := by decide
theorem test_wf_empty_buffer : (Instr.pack 1 (.lit []) 0 1).wf = false := by decide
theorem test_wf_field_past_bit_seven : (Instr.extractField 0x1E 7 2).wf = false := by decide
theorem test_wf_field_width_zero : (Instr.packField 3 2 0).wf = false := by decide
theorem test_wf_good :
    (Instr.extract (.lit (bits [1, 0, 1, 1, 0, 0, 1, 0])) 6 2).wf = true ∧ (Instr.packField 3 2 2).wf = true := by
  decide

/-! Decoding: the operands of every constructor, bytes written out bit by bit from the formats of 30_encoding.md. -/

theorem test_decode_extract :
    decode ⟨.extract, [.cells (bits [0, 1]), .nat 1, .nat 1]⟩ = .ok (.extract (.lit [false, true]) 1 1) := by decide
theorem test_decode_pack :
    decode ⟨.pack, [.nat 5, .buffer 2, .nat 2, .nat 3]⟩ = .ok (.pack 5 (.caller 2) 2 3) := by decide
theorem test_decode_extractField :
    decode ⟨.extractField, [.byte 0b00011110#8, .nat 2, .nat 2]⟩ = .ok (.extractField 0x1E 2 2) := by decide
theorem test_decode_packField :
    decode ⟨.packField, [.nat 3, .nat 4, .nat 2]⟩ = .ok (.packField 3 4 2) := by decide
theorem test_decode_scale :
    decode ⟨.scale, [.byte 0b00000001#8, .byte 0b00001000#8]⟩ = .ok (.scale 0x01 0x08) := by decide
theorem test_decode_drdy : decode ⟨.drdy, [.byte 0b10000000#8]⟩ = .ok (.drdy 0x80) := by decide
theorem test_decode_mode : decode ⟨.mode, [.byte 0b00010000#8]⟩ = .ok (.mode 0x10) := by decide
theorem test_decode_rate : decode ⟨.rate, [.byte 0b00000100#8]⟩ = .ok (.rate 0x04) := by decide
theorem test_decode_gain : decode ⟨.gain, [.byte 0b00000010#8]⟩ = .ok (.gain 0x02) := by decide
theorem test_decode_gainMap : decode ⟨.gainMap, [.nat 255]⟩ = .ok (.gainMap 255) := by decide
theorem test_decode_rsvd : decode ⟨.rsvd, [.byte 0b00000011#8]⟩ = .ok (.rsvd 0x03) := by decide
theorem test_decode_decode :
    decode ⟨.decode, [.byte 0b00010010#8, .byte 0b00110100#8, .byte 0b00011110#8]⟩ =
      .ok (.decode 0x12 0x34 0x1E) := by decide
theorem test_decode_encode :
    decode ⟨.encode, [.nat 1, .nat 0, .nat 0, .nat 4]⟩ = .ok (.encode ⟨true, .continuous, .sps15, .x8⟩) := by decide
theorem test_decode_encode_unused_gain_code :
    decode ⟨.encode, [.nat 0, .nat 1, .nat 3, .nat 5]⟩ = .ok (.encode ⟨false, .single, .sps240, .unknown⟩) := by
  decide
theorem test_decode_init : decode ⟨.init, []⟩ = .ok .init := by decide
theorem test_decode_readTxn : decode ⟨.readTxn, []⟩ = .ok .readTxn := by decide
theorem test_decode_read : decode ⟨.read, []⟩ = .ok .read := by decide
theorem test_decode_drdyReady :
    decode ⟨.drdyReady, [.byte 0b01111111#8]⟩ = .ok (.drdyReady 0b1111111) := by decide
theorem test_decode_drdyNotReady :
    decode ⟨.drdyNotReady, [.byte 0b10000110#8]⟩ = .ok (.drdyNotReady 0b0000110) := by decide
theorem test_decode_modeContinuous :
    decode ⟨.modeContinuous, [.byte 0b10100110#8]⟩ = .ok (.modeContinuous 0b101 0b0110) := by decide
theorem test_decode_modeSingle :
    decode ⟨.modeSingle, [.byte 0b01010001#8]⟩ = .ok (.modeSingle 0b010 0b0001) := by decide
theorem test_decode_rateSps15 :
    decode ⟨.rateSps15, [.byte 0b10110001#8]⟩ = .ok (.rateSps15 0b1011 0b01) := by decide
theorem test_decode_rateSps30 :
    decode ⟨.rateSps30, [.byte 0b00010110#8]⟩ = .ok (.rateSps30 0b0001 0b10) := by decide
theorem test_decode_rateSps60 :
    decode ⟨.rateSps60, [.byte 0b10001011#8]⟩ = .ok (.rateSps60 0b1000 0b11) := by decide
theorem test_decode_rateSps240 :
    decode ⟨.rateSps240, [.byte 0b01101100#8]⟩ = .ok (.rateSps240 0b0110 0b00) := by decide
theorem test_decode_gainX1 : decode ⟨.gainX1, [.byte 0b10110100#8]⟩ = .ok (.gainX1 0b101101) := by decide
theorem test_decode_gainX2 : decode ⟨.gainX2, [.byte 0b00000101#8]⟩ = .ok (.gainX2 0b000001) := by decide
theorem test_decode_gainX4 : decode ⟨.gainX4, [.byte 0b11111110#8]⟩ = .ok (.gainX4 0b111111) := by decide
theorem test_decode_gainUnknown :
    decode ⟨.gainUnknown, [.byte 0b10011111#8]⟩ = .ok (.gainUnknown 0b100111) := by decide
theorem test_decode_rejects_other_case : decode ⟨.rateSps60, [.byte 0x04]⟩ = .error .caseMismatch := by decide
theorem test_decode_rejects_four_bytes :
    decode ⟨.decode, [.byte 1, .byte 8, .byte 0x8C, .byte 0]⟩ = .error .wrongPorts := by decide
theorem test_decode_rejects_wide_port :
    decode ⟨.encode, [.nat 1, .nat 0, .nat 4, .nat 0]⟩ = .error .portTooWide := by decide
theorem test_decode_rejects_empty_buffer :
    decode ⟨.extract, [.cells [], .nat 0, .nat 1]⟩ = .error .emptyBuffer := by decide

/-! The host's probe (log entry 4). -/

theorem test_table_frame : decodeTableWord 24 0x12341E = some (.decode 0x12 0x34 0x1E) := by decide
theorem test_table_scale : decodeTableWord 16 0x0108 = some (.scale 0x01 0x08) := by decide
theorem test_table_encode :
    decodeTableWord 8 0x99 = some (.encode ⟨false, .single, .sps60, .x2⟩) := by decide
theorem test_table_cases :
    decodeTableWord 8 0x10 = some (.modeSingle 0 0) ∧ decodeTableWord 16 0x0408 = some (.rateSps60 0 0) ∧
      decodeTableWord 7 0 = none := by decide
theorem test_fetch_runs_the_word :
    resultOf (step (State.reset.withFetchWord 24 0x01088C)) = returned (.decode 0x01 0x08 0x8C) := by decide

/-! The codec: vectors X, XR, K, F. -/

/-- X2. -/
theorem test_extract_inner :
    returned (.extract (.lit (bits [1, 0, 1, 1, 0, 0, 1, 0])) 1 4) = some (.value 6) := by decide
/-- X13: a leading 1 is weight 2^31, not a sign. -/
theorem test_extract_32 :
    returned (.extract (.lit (true :: List.replicate 31 false)) 0 32) = some (.value 2147483648) := by decide
/-- XR1, XR3, XR4. -/
theorem test_codec_refused :
    refusalOf (exec (.extract (.lit (bits [1, 0, 1, 1, 0, 0, 1, 0])) 7 2) State.reset) =
        some .boundsOutOfContract ∧
      refusalOf (exec (.pack 1 (.lit (bits [1, 0, 1, 1, 0, 0, 1, 0])) 0 0) State.reset) =
        some .lengthOutOfContract ∧
      refusalOf (exec (.extract (.lit (List.replicate 40 false)) 0 33) State.reset) =
        some .lengthOutOfContract := by decide
/-- K2: truncation to the low three bits, other cells untouched. -/
theorem test_pack_truncates :
    returned (.pack 0x1D (.lit (bits [0, 0, 0, 0, 0, 0, 0, 0])) 2 3) =
      some (.buffer (bits [0, 0, 1, 0, 1, 0, 0, 0])) := by decide
/-- K1 on a buffer of the caller: changed in place. -/
theorem test_pack_in_place :
    bufsOf (exec (.pack 5 (.caller 2) 2 3) (withBuf (bits [1, 1, 1, 1, 1, 1, 1, 1]))) =
      some [(2, bits [1, 1, 1, 0, 1, 1, 1, 1])] := by decide
/-- F1, F11. -/
theorem test_extractField :
    returned (.extractField 0x1E 2 2) = some (.field 3) ∧
      refusalOf (exec (.extractField 0x1E 7 2) State.reset) = some .fieldOutOfRange := by decide
/-- F6, F9. -/
theorem test_packField :
    returned (.packField 3 2 2) = some (.byteMask 0x0C) ∧ returned (.packField 7 0 2) = some (.byteMask 0x03) := by
  decide

/-! The scaler: section 2.2. -/

theorem test_scale_weights : returned (.scale 0x12 0x34) = some (.reading ⟨0x1234⟩) := by decide
/-- Row (0x80, 0x00): 2048, not negative. -/
theorem test_scale_unsigned : returned (.scale 0x80 0x00) = some (.reading ⟨2048 * 16⟩) := by decide
/-- The f32 column for W = 0x0108, 0xFFFF, 0x0001. -/
theorem test_binary32 :
    binary32 ⟨0x0108⟩ = 0x41840000 ∧ binary32 ⟨0xFFFF⟩ = 0x457FFF00 ∧ binary32 ⟨1⟩ = 0x3D800000 := by decide

/-! The configuration decoder: sections 2.3 and 1. -/

theorem test_drdy : returned (.drdy 0x80) = some (.dataReady false) ∧ returned (.drdy 0x7F) = some (.dataReady true) := by
  decide
theorem test_mode : returned (.mode 0x10) = some (.mode .single) ∧ returned (.mode 0xEF) = some (.mode .continuous) := by
  decide
theorem test_rate_bit_order :
    returned (.rate 0x04) = some (.rate 1 .sps30) ∧ returned (.rate 0x08) = some (.rate 2 .sps60) := by decide
theorem test_gain_three_is_unknown :
    returned (.gain 0x03) = some (.gain 3 .unknown) ∧ returned (.gain 0x02) = some (.gain 2 .x4) := by decide
theorem test_gainMap_three_and_four :
    returned (.gainMap 3) = some (.gainMap .unknown) ∧ returned (.gainMap 4) = some (.gainMap .x8) := by decide
theorem test_rsvd : returned (.rsvd 0xFF) = some (.rsvd true) ∧ returned (.rsvd 0x60) = some (.rsvd false) := by decide
/-- DF7. -/
theorem test_decode_frame :
    returned (.decode 0xAB 0xCD 0x97) =
      some (.decoded ⟨⟨0xABCD⟩, ⟨false, .single, .sps30, .unknown⟩, true⟩) := by decide
/-- S1 as corrected by C1: the Reading is 256, not 16. -/
theorem test_decode_conflict_c1 :
    returned (.decode 0x10 0x00 0x00) =
      some (.decoded ⟨⟨256 * 16⟩, ⟨true, .continuous, .sps15, .x1⟩, false⟩) := by decide
/-- Program P1's output ports. -/
theorem test_ports_p1 :
    (returned (.decode 0x12 0x34 0x1E)).map (fun r => ((r.ports.readingQ, r.ports.dataReady, r.ports.mode),
        (r.ports.rateOrd, r.ports.gainCode, r.ports.rsvd))) =
      some ((some 0x1234, some 1, some 1), (some 3, some 2, some 0)) := by decide

/-! The encoder: section 2.4, program P3. -/

theorem test_encode_p3 :
    returned (.encode ⟨false, .single, .sps60, .x2⟩) = some (.encoded (some 0x99)) := by decide
theorem test_encode_refuses_x8_and_unknown :
    returned (.encode ⟨true, .continuous, .sps15, .x8⟩) = some (.encoded none) ∧
      returned (.encode ⟨false, .single, .sps240, .unknown⟩) = some (.encoded none) := by decide

/-! The transport: section 2.5. -/

/-- T1: as DF4. -/
theorem test_read_t1 :
    resultOf (exec .read (withTxn [0x01, 0x08, 0x8C] true)) =
      some (.read (some ⟨⟨0x0108⟩, ⟨false, .continuous, .sps240, .x1⟩, false⟩)) := by decide
/-- T4 and T6: no data. -/
theorem test_read_unavailable :
    resultOf (exec .read (withTxn [0x01, 0x08, 0x8C] false)) = some (.read none) ∧
      resultOf (exec .read (withTxn [0x01, 0x08, 0x8C, 0x00] true)) = some (.read none) := by decide
theorem test_readTxn_passes_answer :
    resultOf (exec .readTxn (withTxn [0x01, 0x08] true)) = some (.txn ⟨[0x01, 0x08], true⟩) := by decide
theorem test_init_passes_answer :
    resultOf (exec .init { State.reset with initAnswers := [true] }) = some (.initOk true) := by decide

/-! The case rows: their rows of 30_encoding.md R64 to R67. -/

theorem test_case_drdy :
    returned (.drdyReady 0) = some (.dataReady true) ∧ returned (.drdyNotReady 0) = some (.dataReady false) := by
  decide
theorem test_case_mode :
    returned (.modeContinuous 0 0) = some (.mode .continuous) ∧ returned (.modeSingle 0 0) = some (.mode .single) := by
  decide
theorem test_case_rate :
    returned (.rateSps15 0 0) = some (.rate 0 .sps15) ∧ returned (.rateSps30 0 0) = some (.rate 1 .sps30) ∧
      returned (.rateSps60 0 0) = some (.rate 2 .sps60) ∧ returned (.rateSps240 0 0) = some (.rate 3 .sps240) := by
  decide
theorem test_case_gain :
    returned (.gainX1 0) = some (.gainCase 0 .x1 false) ∧ returned (.gainX2 0) = some (.gainCase 1 .x2 false) ∧
      returned (.gainX4 0) = some (.gainCase 2 .x4 false) ∧
      returned (.gainUnknown 0) = some (.gainCase 3 .unknown true) := by decide

/-! Steps. -/

theorem test_step_idle : step State.reset = .next State.reset := by rfl
theorem test_step_takes_the_first :
    resultOf (step { State.reset with pending := [⟨.drdy, [.byte 0x80]⟩, ⟨.init, []⟩] }) =
      some (.dataReady false) := by decide

/-! Witnesses: for every statement with hypotheses, a state and operands that meet them all. Buffer 2 has 8
cells; boundary values of the ranges stand beside inner ones. -/

theorem witness_codec_contract :
    (1 ≤ 1 ∧ 1 ≤ 32 ∧ 7 + 1 ≤ ((withBuf (bits [1, 0, 1, 1, 0, 0, 1, 0])).cells (.caller 2)).length) ∧
      (1 ≤ 32 ∧ 32 ≤ 32 ∧ 0 + 32 ≤ (State.reset.cells (.lit (List.replicate 32 true))).length) := by decide
theorem witness_codec_refused_length : (0 < 1 ∨ 32 < 0) ∧ (33 < 1 ∨ 32 < 33) := by decide
theorem witness_codec_refused_bounds :
    1 ≤ 2 ∧ 2 ≤ 32 ∧ ((withBuf (bits [1, 0, 1, 1, 0, 0, 1, 0])).cells (.caller 2)).length < 7 + 2 := by decide
theorem witness_codec_refused_no_buffer :
    1 ≤ 1 ∧ 1 ≤ 32 ∧ (State.reset.cells (.caller 2)).length < 0 + 1 := by decide
theorem witness_restores :
    Memory.wf (withBuf (bits [1, 0, 1, 1, 0, 0, 1, 0])).bufs = true ∧ 1 ≤ 8 ∧ 8 ≤ 32 ∧
      0 + 8 ≤ (Memory.get (withBuf (bits [1, 0, 1, 1, 0, 0, 1, 0])).bufs 2).length := by decide
theorem witness_disjoint_fields :
    6 + 2 ≤ (Memory.get (withBuf (bits [1, 0, 1, 1, 0, 0, 1, 0])).bufs 2).length ∧
      4 + 2 ≤ (Memory.get (withBuf (bits [1, 0, 1, 1, 0, 0, 1, 0])).bufs 2).length ∧
      ((2 : Nat) ≠ 2 ∨ 4 + 2 ≤ 6 ∨ 6 + 2 ≤ 4) := by decide
theorem witness_other_buffer :
    0 + 1 ≤ (Memory.get [(2, [true]), (5, [false])] 2).length ∧
      0 + 1 ≤ (Memory.get [(2, [true]), (5, [false])] 5).length ∧ ((5 : Nat) ≠ 2 ∨ 0 + 1 ≤ 0 ∨ 0 + 1 ≤ 0) := by decide
theorem witness_sub_field :
    1 ≤ 8 ∧ 8 ≤ 32 ∧ 0 + 8 ≤ (Memory.get (withBuf (bits [1, 0, 1, 1, 0, 0, 1, 0])).bufs 2).length ∧
      1 ≤ 2 ∧ 6 + 2 ≤ 8 := by decide
theorem witness_concatenation :
    1 ≤ 4 ∧ 1 ≤ 4 ∧ 4 + 4 ≤ 32 ∧
      0 + (4 + 4) ≤ ((withBuf (bits [1, 0, 1, 1, 0, 0, 1, 0])).cells (.caller 2)).length := by decide
theorem witness_field_in_range : (1 ≤ 8 ∧ 0 + 8 ≤ 8) ∧ (1 ≤ 1 ∧ 7 + 1 ≤ 8) ∧ (bits [1, 1, 1, 1, 1, 1, 1, 1]).length = 8 := by
  decide
theorem witness_field_out_of_range : ¬(1 ≤ 2 ∧ 7 + 2 ≤ 8) ∧ ¬(1 ≤ 0 ∧ 0 + 0 ≤ 8) := by decide
theorem witness_independent_fields :
    (0x00#8).getLsbD 7 = (0x60#8).getLsbD 7 ∧ (0x00#8).getLsbD 4 = (0x60#8).getLsbD 4 ∧
      (0x00#8).getLsbD 3 = (0x60#8).getLsbD 3 ∧ (0x00#8).getLsbD 2 = (0x60#8).getLsbD 2 ∧
      (0x00#8).getLsbD 1 = (0x60#8).getLsbD 1 ∧ (0x00#8).getLsbD 0 = (0x60#8).getLsbD 0 := by decide
theorem witness_case_row_selected :
    (CaseRow.selects ⟨.gainX1, 0x03, 0x00⟩ 0x04) = true ∧ (CaseRow.selects ⟨.gainX1, 0x03, 0x00⟩ 0x03) = false := by
  decide
theorem witness_encodable_gains :
    ((GainAmp.x1 = .x1 ∧ 0#2 = 0#2) ∨ (GainAmp.x1 = .x2 ∧ 0#2 = 1#2) ∨ (GainAmp.x1 = .x4 ∧ 0#2 = 2#2)) ∧
      ((GainAmp.x4 = .x1 ∧ 2#2 = 0#2) ∨ (GainAmp.x4 = .x2 ∧ 2#2 = 1#2) ∨ (GainAmp.x4 = .x4 ∧ 2#2 = 2#2)) := by decide
/-- The gain codes where the two clauses of EncodeDrivesThePorts meet. -/
theorem witness_encode_gain_codes : 2#3 ≤ 2#3 ∧ ¬2#3 < 2#3 ∧ 2#3 < 3#3 ∧ ¬3#3 ≤ 2#3 ∧ 2#3 < 7#3 := by decide
/-- The bounds of the codec's contract at which CodecDrivesThePorts drives a 32-bit word of ones. -/
theorem witness_codec_ports :
    (returned (.extract (.lit (List.replicate 32 true)) 0 32)).map (fun r => r.ports.extValue) =
      some (some 0xFFFFFFFF#32) := by decide
theorem witness_encodable_configuration :
    (⟨false, .single, .sps60, .x2⟩ : Configuration).gainAmp ≠ .x8 ∧
      (⟨false, .single, .sps60, .x2⟩ : Configuration).gainAmp ≠ .unknown := by decide
theorem witness_decode_encode_bytes : 0x7E#8 &&& 0x03#8 ≠ 0x03#8 ∧ 0x63#8 &&& 0x03#8 = 0x03#8 := by decide
theorem witness_answers :
    ({ State.reset with initAnswers := [false] } : State).initAnswers = false :: [] ∧
      State.reset.initAnswers = [] ∧
      (withTxn [0x01, 0x08, 0x8C] true).txnAnswers = ⟨[0x01, 0x08, 0x8C], true⟩ :: [] ∧
      State.reset.txnAnswers = [] := by decide
theorem witness_read_answers :
    resultOf (exec .readTxn (withTxn [0x01, 0x08, 0x8C] true)) = some (.txn ⟨[0x01, 0x08, 0x8C], true⟩) ∧
      resultOf (exec .readTxn (withTxn [0x01, 0x08] true)) = some (.txn ⟨[0x01, 0x08], true⟩) ∧
      ¬((⟨[0x01, 0x08], true⟩ : TxnAnswer).success = true ∧ (⟨[0x01, 0x08], true⟩ : TxnAnswer).bytes.length = 3) := by
  decide
theorem witness_exec_next :
    exec .read (withTxn [] false) =
      .next { State.reset with calls := [.readTxn 0 3], result := .read none } ∧
    exec (.drdy 0x80) State.reset = .next { State.reset with result := .dataReady false } ∧
    exec .init { State.reset with initAnswers := [true] } =
      .next { State.reset with calls := [.init 0], result := .initOk true } := ⟨rfl, rfl, rfl⟩
theorem witness_pack_next :
    exec (.pack 1 (.caller 2) 0 1) (withBuf [false]) =
      .next { State.reset with bufs := [(2, [true])], result := .buffer [true] } := rfl
theorem witness_equal_surroundings :
    State.reset.bufs = ({ State.reset with result := .mode .single, addr := 7 } : State).bufs ∧
      State.reset.initAnswers = ({ State.reset with result := .mode .single, addr := 7 } : State).initAnswers ∧
      State.reset.txnAnswers = ({ State.reset with result := .mode .single, addr := 7 } : State).txnAnswers ∧
      State.reset.draws = ({ State.reset with result := .mode .single, addr := 7 } : State).draws := by decide
theorem witness_pending :
    State.reset.pending = [] ∧
      (({ State.reset with pending := [⟨.init, []⟩] } : State).pending = ⟨.init, []⟩ :: [] ∧
        decode ⟨.init, []⟩ = .ok .init) ∧
      (({ State.reset with pending := [⟨.drdy, []⟩] } : State).pending = ⟨.drdy, []⟩ :: [] ∧
        decode ⟨.drdy, []⟩ = .error .wrongPorts) := by decide
theorem witness_step_next :
    ({ withBuf [false] with pending := [⟨.pack, [.nat 1, .buffer 2, .nat 0, .nat 1]⟩] } : State).Inv ∧
      step { withBuf [false] with pending := [⟨.pack, [.nat 1, .buffer 2, .nat 0, .nat 1]⟩] } =
        .next { State.reset with bufs := [(2, [true])], result := .buffer [true] } := ⟨by decide, rfl⟩
theorem witness_wellFormed : (Instr.pack 5 (.lit (bits [1, 1, 1, 1, 1, 1, 1, 1])) 2 3).wf = true := by decide
theorem witness_decodes_unused_code :
    decode ⟨.encode, [.nat 0, .nat 0, .nat 0, .nat 3]⟩ = .ok (.encode ⟨false, .continuous, .sps15, .unknown⟩) := by
  decide

end Sys2Proof.Tests
end

section
/-! PROOF. No operation sees what an earlier one returned (spec/10_state.md R20): what each shared operation takes from
State is the caller's buffers and the transport's coming answers, so states that agree on these get the same answer. -/

namespace Sys2Proof.Machine

/-- The two states agree on all that an operation may take from State: the caller's buffers and the transport's
coming answers, listed or free. Earlier results, messages, the address and the waiting invocations are left open. -/
structure SameSurroundings (s s' : State) : Prop where
  bufs        : s.bufs = s'.bufs
  initAnswers : s.initAnswers = s'.initAnswers
  txnAnswers  : s.txnAnswers = s'.txnAnswers
  draws       : s.draws = s'.draws

/-- The two answers are the same as far as the caller sees: equal results and buffers, or the same refusal. -/
def SameAnswer (o o' : Out) : Prop :=
  (∃ t t', o = .next t ∧ o' = .next t' ∧ t.result = t'.result ∧ t.bufs = t'.bufs) ∨
  (∃ r, o = .refused r ∧ o' = .refused r)

theorem SameAnswer.of_returns {t t' : State} (r : Result) (h : t.bufs = t'.bufs) :
    SameAnswer (.next (t.returns r)) (.next (t'.returns r)) :=
  .inl ⟨_, _, rfl, rfl, rfl, h⟩

theorem SameAnswer.of_refused (r : Refusal) : SameAnswer (.refused r) (.refused r) :=
  .inr ⟨r, rfl, rfl⟩

/-- The contract looks at the cells and the operands only, so it takes the same branch for both. -/
theorem SameAnswer.withField_congr {op op' : Out} (cells : Cells) (off len : Nat) (h : SameAnswer op op') :
    SameAnswer (withField cells off len op) (withField cells off len op') := by
  obtain ⟨h1, h2, h3, e⟩ | ⟨hlen, e⟩ | ⟨h1, h2, h3, e⟩ := withField_eq cells off len op
  · rwa [e, withField_of_contract cells off len op' h1 h2 h3]
  · rw [e, withField_of_bad_length cells off len op' hlen]
    exact .of_refused _
  · rw [e, withField_of_bad_bounds cells off len op' h1 h2 h3]
    exact .of_refused _

/-- The range of a field of a byte is a matter of the operands only. -/
theorem SameAnswer.withinByte_congr {op op' : Out} (startBit width : Nat) (h : SameAnswer op op') :
    SameAnswer (withinByte startBit width op) (withinByte startBit width op') := by
  unfold withinByte
  split
  · exact h
  · exact .of_refused _

theorem State.cells_congr {s s' : State} (h : s.bufs = s'.bufs) (b : BufArg) : s.cells b = s'.cells b := by
  cases b with
  | lit c => rfl
  | caller k => rw [cells_caller, cells_caller, h]

theorem State.putCells_bufs_congr {s s' : State} (h : s.bufs = s'.bufs) (b : BufArg) (c : Cells) :
    (s.putCells b c).bufs = (s'.putCells b c).bufs := by
  cases b with
  | lit d => exact h
  | caller k => rw [putCells_caller_bufs, putCells_caller_bufs, h]

/-- INIT's answer is the transport's: the listed one, or the free one the counter gives. -/
theorem State.callInit_answer_congr {s s' : State} (h : s.initAnswers = s'.initAnswers)
    (hd : s.draws = s'.draws) : s.callInit.1 = s'.callInit.1 := by
  unfold callInit
  rw [h, hd]
  split <;> rfl

/-- READTXN's answer is the transport's: the listed one, or the free one the counter gives. -/
theorem State.callTxn_answer_congr {s s' : State} (h : s.txnAnswers = s'.txnAnswers)
    (hd : s.draws = s'.draws) : s.callTxn.1 = s'.callTxn.1 := by
  unfold callTxn
  rw [h, hd]
  split <;> rfl

/-- Every operation answers states with the same surroundings alike. EXTRACT and PACK take cells from State and the
three transport operations take an answer; all others return a function of their operands. -/
theorem exec_sameAnswer (i : Instr) {s s' : State} (h : SameSurroundings s s') :
    SameAnswer (exec i s) (exec i s') := by
  cases i with
  | extract buf off len =>
    simp only [exec, execExtract, State.cells_congr h.bufs buf]
    exact .withField_congr _ off len (.of_returns _ h.bufs)
  | pack v buf off len =>
    simp only [exec, execPack, State.cells_congr h.bufs buf]
    exact .withField_congr _ off len (.of_returns _ (State.putCells_bufs_congr h.bufs buf _))
  | extractField c startBit width => exact .withinByte_congr startBit width (.of_returns _ h.bufs)
  | packField v startBit width => exact .withinByte_congr startBit width (.of_returns _ h.bufs)
  | init =>
    simp only [exec, execInit, State.callInit_answer_congr h.initAnswers h.draws]
    exact .of_returns _ (by simp [h.bufs])
  | readTxn =>
    simp only [exec, execReadTxn, State.callTxn_answer_congr h.txnAnswers h.draws]
    exact .of_returns _ (by simp [h.bufs])
  | read =>
    simp only [exec, execRead, State.callTxn_answer_congr h.txnAnswers h.draws]
    exact .of_returns _ (by simp [h.bufs])
  | _ => exact .of_returns _ h.bufs

/-- Settles O39: what an operation takes from State is in the buffers and the coming answers alone. -/
theorem noOperationSeesEarlierResults : Obligations.NoOperationSeesEarlierResults := by
  intro i s s' hbufs hinit htxn hdraws
  exact exec_sameAnswer i ⟨hbufs, hinit, htxn, hdraws⟩

end Sys2Proof.Machine
end

section
/-! PROOF. The sparse gain of a configuration byte (spec/42_config_decoder.md R123, R67): the cells of a byte's image
are its bits, so the ordinal is made of bits 1 and 0, and on ordinals below 4 the mapper is the listed table. -/

namespace Sys2Proof.Machine

/-- Cell k of a byte's image is bit 7 - k (R47). -/
theorem bufRead_image8 (c : Byte) {k : Nat} (hk : k < 8) : bufRead (image8 c) k = c.getLsbD (7 - k) := by
  have h := bufRead_packBits_inside c.toNat zeros8 0 8 k hk (by decide)
  rwa [Nat.zero_add] at h

/-- A two-cell field of a byte's image is two neighbouring bits of the byte, the higher one first (R72). -/
theorem extractBits_image8_two (c : Byte) {off : Nat} (h : off ≤ 6) :
    extractBits (image8 c) off 2 = 2 * (c.getLsbD (7 - off)).toNat + (c.getLsbD (6 - off)).toNat := by
  have hlow : 7 - (off + 1) = 6 - off := by omega
  rw [extractBits_succ, extractBits_succ, bufRead_image8 c (by omega), bufRead_image8 c (by omega), hlow]
  simp [extractBits, extractLoop, Nat.mul_comm]

theorem gainOrdinal_eq (c : Byte) : gainOrdinal c = 2 * (c.getLsbD 1).toNat + (c.getLsbD 0).toNat :=
  extractBits_image8_two c le_rfl

theorem gainOrdinal_lt (c : Byte) : gainOrdinal c < 4 := extractBits_lt _ _ 2

/-- On the ordinals of a byte the mapper is the list of members: X8, whose code is 4, is out of reach (R67). -/
theorem getElem?_gainMembers {n : Nat} (h : n < 4) :
    [GainAmp.x1, .x2, .x4, .unknown][n]? = some (gainOf n) := by
  interval_cases n <;> rfl

theorem getElem?_gainFactors {n : Nat} (h : n < 4) :
    [some 1, some 2, some 4, none][n]? = some (gainFactor (gainOf n)) := by
  interval_cases n <;> rfl

/-- Settles O19: GAIN returns the ordinal its two cells give, which is below 4, and the mapper's member for it. -/
theorem gainIsSparse : Obligations.GainIsSparse := by
  intro s c
  have hlt := gainOrdinal_lt c
  exact ⟨gainOrdinal c, gainOf (gainOrdinal c), gainOrdinal_eq c, getElem?_gainMembers hlt,
    getElem?_gainFactors hlt, rfl⟩

end Sys2Proof.Machine
end

section
/-! PROOF. EXTRACT in contract (spec/40_bitfield_codec.md R90): the loop, which doubles its accumulator cell by cell,
adds up the weighted cells of the field. -/

namespace Sys2Proof.Machine

/-- In contract EXTRACT returns what its loop computes and changes nothing else. -/
theorem exec_extract_of_contract (s : State) (b : BufArg) {off len : Nat} (h1 : 1 ≤ len) (h2 : len ≤ 32)
    (hN : off + len ≤ (s.cells b).length) :
    exec (.extract b off len) s = .next { s with result := .value (extractBits (s.cells b) off len) } :=
  withField_of_contract _ _ _ _ h1 h2 hN

/-- The loop's closed form: the first cell has the greatest weight, and the rest is a shorter field. -/
theorem extractBits_eq_sum (buf : Cells) (off n : Nat) :
    extractBits buf off n = ∑ i ∈ Finset.range n, (buf.getD (off + i) false).toNat * 2 ^ (n - 1 - i) := by
  induction n generalizing off with
  | zero => rfl
  | succ n ih =>
    have hrest : ∀ i, (buf.getD (off + (i + 1)) false).toNat * 2 ^ (n + 1 - 1 - (i + 1)) =
        (buf.getD (off + 1 + i) false).toNat * 2 ^ (n - 1 - i) := by
      intro i
      rw [show off + (i + 1) = off + 1 + i by omega, show n + 1 - 1 - (i + 1) = n - 1 - i by omega]
    rw [extractBits_succ, ih, bufRead_eq_getD, Finset.sum_range_succ', Finset.sum_congr rfl fun i _ => hrest i,
      Nat.add_comm]
    rfl

/-- Settles O1: in contract EXTRACT is its loop, whose closed form is the weighted sum and whose bound is 2^length. -/
theorem extractReadsMostSignificantFirst : Obligations.ExtractReadsMostSignificantFirst := by
  intro s b off len h1 h2 hN
  exact ⟨_, exec_extract_of_contract s b h1 h2 hN, extractBits_eq_sum _ _ _, extractBits_lt _ _ _⟩

end Sys2Proof.Machine
end

section
/-! PROOF. PACK in contract (spec/40_bitfield_codec.md R91): it writes the field's cells, and a buffer of the caller is
changed in place. A field in contract has a cell, so the new buffer is not empty and its number stays listed. -/

namespace Sys2Proof.Machine

/-- Putting cells in place of an operand touches the caller's buffers alone. -/
theorem State.putCells_eq (s : State) (b : BufArg) (c : Cells) :
    s.putCells b c = { s with bufs := (s.putCells b c).bufs } := by
  cases b <;> rfl

/-- Cells that are not empty are read back where they were put, in whatever order the buffers are listed. -/
theorem Memory.get_set_same_of_ne_nil (m : Memory) (k : Nat) {c : Cells} (hc : c ≠ []) :
    Memory.get (Memory.set m k c) k = c := by
  have he : ¬c.isEmpty = true := by rwa [List.isEmpty_iff]
  induction m with
  | nil => rw [Memory.set, if_neg he, Memory.get, if_pos rfl]
  | cons e m ih =>
    obtain ⟨k0, c0⟩ := e
    rw [Memory.set, if_neg he, if_neg he]
    split
    · rw [Memory.get, if_pos rfl]
    · split
      · rw [Memory.get, if_pos rfl]
      · next hne => rw [Memory.get, if_neg (Ne.symm hne), ih]

/-- In contract PACK returns the new buffer, puts it in place of its operand, and changes nothing else. -/
theorem exec_pack_of_contract (s : State) (value : Nat) (b : BufArg) {off len : Nat} (h1 : 1 ≤ len) (h2 : len ≤ 32)
    (hN : off + len ≤ (s.cells b).length) :
    exec (.pack value b off len) s =
      .next { s with bufs := (s.putCells b (packBits value (s.cells b) off len)).bufs
                     result := .buffer (packBits value (s.cells b) off len) } := by
  have hrun : exec (.pack value b off len) s = .next ((s.putCells b _).returns (.buffer _)) :=
    withField_of_contract _ _ _ _ h1 h2 hN
  rw [hrun, State.putCells_eq]
  rfl

/-- Settles O2: the new buffer is the loop's, whose cells are known inside the field and outside it; a buffer of the
caller then holds it, and the others are out of the write's reach. -/
theorem packWritesLowBitsInPlace : Obligations.PackWritesLowBitsInPlace := by
  intro s value b off len h1 h2 hN
  have hne : packBits value (s.cells b) off len ≠ [] := by
    rw [← List.length_pos_iff, length_packBits]
    omega
  refine ⟨_, _, exec_pack_of_contract s value b h1 h2 hN, length_packBits _ _ _ _, ?inside, ?outside, ?caller, ?lit⟩
  case inside =>
    intro i hi
    rw [← bufRead_eq_getD, bufRead_packBits_inside _ _ _ _ _ hi hN]
  case outside =>
    intro k hk
    rw [← bufRead_eq_getD, ← bufRead_eq_getD, bufRead_packBits_outside _ _ _ _ _ hk]
  case caller =>
    rintro k rfl
    exact ⟨Memory.get_set_same_of_ne_nil _ _ hne, fun j hj => Memory.get_set_other _ _ _ _ hj⟩
  case lit =>
    rintro c rfl
    rfl

end Sys2Proof.Machine
end

section
/-! PROOF. The Reading of SCALE (spec/41_reading_scaler.md R110): the three Readings it is made of are exact as rational
numbers, so the number of sixteenths it holds stands for the weighted sum with no rounding. -/

namespace Sys2Proof.Machine

@[simp] theorem toRat_readingOfNat (n : Nat) : (readingOfNat n).toRat = n := by
  simp [readingOfNat, Reading.toRat]

@[simp] theorem toRat_readingOfSixteenths (n : Nat) : (readingOfSixteenths n).toRat = (n : Rat) / 16 := rfl

@[simp] theorem toRat_readingAdd (a b : Reading) : (readingAdd a b).toRat = a.toRat + b.toRat := by
  simp [readingAdd, Reading.toRat, add_div]

/-- The formula of R110: the low byte's division by 16 is exact. -/
theorem toRat_scaleOf (high low : Byte) :
    (scaleOf high low).toRat = (high.toNat : Rat) * 16 + (low.toNat : Rat) / 16 := by
  rw [scaleOf, toRat_readingAdd, toRat_readingOfNat, toRat_readingOfSixteenths, Nat.cast_mul, Nat.cast_ofNat]

/-- SCALE is total and replaces the latest result only. -/
theorem exec_scale (s : State) (high low : Byte) :
    exec (.scale high low) s = .next { s with result := .reading (scaleOf high low) } := rfl

/-- Settles O12: SCALE returns the Reading `scaleOf`, whose rational value is the formula's. -/
theorem scaleIsWeightedSum : Obligations.ScaleIsWeightedSum := by
  intro s high low
  exact ⟨_, exec_scale s high low, toRat_scaleOf high low⟩

end Sys2Proof.Machine
end

section
/-! PROOF. The other fields of a configuration byte (spec/42_config_decoder.md R120 to R122): each is a function of its
own bits of the byte, so DECODE, which returns them side by side, keeps them independent (R128). -/

namespace Sys2Proof.Machine

/-- Ready is the inverted logic of cell 0 of the image (R72, R64). -/
theorem dataReadyFlag_eq (c : Byte) : dataReadyFlag c = !c.getLsbD 7 :=
  congrArg (!·) (bufRead_image8 c (by decide : 0 < 8))

theorem modeBit_eq (c : Byte) : modeBit c = c.getLsbD 4 := bufRead_image8 c (by decide : 3 < 8)

theorem rateOrdinal_eq (c : Byte) : rateOrdinal c = 2 * (c.getLsbD 3).toNat + (c.getLsbD 2).toNat :=
  extractBits_image8_two c (by decide : 4 ≤ 6)

theorem rateOrdinal_lt (c : Byte) : rateOrdinal c < 4 := extractBits_lt _ _ 2

/-- The data rate of an ordinal is the list's member at that position (R66). -/
theorem getElem?_rateMembers {n : Nat} (h : n < 4) :
    [DataRate.sps15, .sps30, .sps60, .sps240][n]? = some (rateOf n) := by
  interval_cases n <;> rfl

theorem getElem?_rateSamples {n : Nat} (h : n < 4) :
    [15, 30, 60, 240][n]? = some (samplesPerSecond (rateOf n)) := by
  interval_cases n <;> rfl

theorem exec_drdy (s : State) (c : Byte) :
    exec (.drdy c) s = .next { s with result := .dataReady (dataReadyFlag c) } := rfl

theorem exec_mode (s : State) (c : Byte) :
    exec (.mode c) s = .next { s with result := .mode (modeOf (modeBit c)) } := rfl

theorem exec_rate (s : State) (c : Byte) :
    exec (.rate c) s = .next { s with result := .rate (rateOrdinal c) (rateOf (rateOrdinal c)) } := rfl

/-- DECODE is total and replaces the latest result only (R127). -/
theorem exec_decode (s : State) (high low c : Byte) :
    exec (.decode high low c) s = .next { s with result := .decoded (decodeFrame high low c) } := rfl

theorem gainOrdinal_congr {c c' : Byte} (h1 : c.getLsbD 1 = c'.getLsbD 1) (h0 : c.getLsbD 0 = c'.getLsbD 0) :
    gainOrdinal c = gainOrdinal c' := by
  rw [gainOrdinal_eq, gainOrdinal_eq, h1, h0]

theorem rateOrdinal_congr {c c' : Byte} (h3 : c.getLsbD 3 = c'.getLsbD 3) (h2 : c.getLsbD 2 = c'.getLsbD 2) :
    rateOrdinal c = rateOrdinal c' := by
  rw [rateOrdinal_eq, rateOrdinal_eq, h3, h2]

/-- Settles O23: each field of the decoded frame is a function of the flag, bit or ordinal that its own bits give. -/
theorem decodeFieldsAreIndependent : Obligations.DecodeFieldsAreIndependent := by
  intro s high low c high' low' c'
  refine ⟨_, _, exec_decode s high low c, exec_decode s high' low' c', ?reading, ?dataReady, ?mode, ?dataRate, ?gain⟩
  case reading =>
    rintro rfl rfl
    rfl
  case dataReady =>
    intro h7
    change dataReadyFlag c = dataReadyFlag c'
    rw [dataReadyFlag_eq, dataReadyFlag_eq, h7]
  case mode =>
    intro h4
    change modeOf (modeBit c) = modeOf (modeBit c')
    rw [modeBit_eq, modeBit_eq, h4]
  case dataRate =>
    intro h3 h2
    exact congrArg rateOf (rateOrdinal_congr h3 h2)
  case gain =>
    intro h1 h0
    -- `gainAmp` and `rsvd` are both functions of the gain ordinal.
    have hord := gainOrdinal_congr h1 h0
    exact ⟨congrArg gainOf hord, congrArg (· == 3) hord⟩

/-- Settles O16: the flag DRDY returns is the negation of bit 7. -/
theorem drdyNegatesBitSeven : Obligations.DrdyNegatesBitSeven := by
  intro s c
  rw [exec_drdy, dataReadyFlag_eq]

/-- Settles O17: the bit MODE maps to the enumeration is bit 4. -/
theorem modeIsBitFour : Obligations.ModeIsBitFour := by
  intro s c
  rw [exec_mode, modeBit_eq, modeOf]

/-- Settles O18: RATE returns the ordinal its two cells give, which is below 4, and the list's member there. -/
theorem rateIsPositional : Obligations.RateIsPositional := by
  intro s c
  have hlt := rateOrdinal_lt c
  exact ⟨rateOrdinal c, rateOf (rateOrdinal c), rateOrdinal_eq c, getElem?_rateMembers hlt,
    getElem?_rateSamples hlt, exec_rate s c⟩

end Sys2Proof.Machine
end

section
/-! PROOF. What crosses the transport boundary (spec/44_transport_read.md R153): an operation that completes has sent what
the state it returns from has sent, and only a call of the transport adds a message to it. -/

namespace Sys2Proof.Machine

/-- A codec operation that completes was in contract, so the answer is its own. -/
theorem eq_next_of_withField_eq_next {cells : Cells} {off len : Nat} {op : Out} {t : State}
    (h : withField cells off len op = .next t) : op = .next t := by
  obtain ⟨-, -, -, e⟩ | ⟨-, e⟩ | ⟨-, -, -, e⟩ := withField_eq cells off len op
  · exact e.symm.trans h
  · cases e.symm.trans h
  · cases e.symm.trans h

/-- An operation on a field of a byte that completes was in range, so the answer is its own. -/
theorem eq_next_of_withinByte_eq_next {startBit width : Nat} {op : Out} {t : State}
    (h : withinByte startBit width op = .next t) : op = .next t := by
  obtain ⟨-, -, e⟩ | ⟨-, e⟩ := withinByte_eq startBit width op
  · exact e.symm.trans h
  · cases e.symm.trans h

/-- Returning to the caller sends nothing. -/
theorem calls_eq_of_returns_eq_next {s t : State} {r : Result} (h : (.next (s.returns r) : Out) = .next t) :
    t.calls = s.calls := by
  cases h
  exact State.returns_calls s r

/-- Every operation but the three of the transport returns from the state it was invoked in, PACK with the new cells
put in their place, so it sends nothing. -/
theorem exec_calls_of_not_transport {i : Instr} {s t : State} (hinit : i ≠ .init) (htxn : i ≠ .readTxn)
    (hread : i ≠ .read) (h : exec i s = .next t) : t.calls = s.calls := by
  cases i with
  | extract buf off len => exact calls_eq_of_returns_eq_next (eq_next_of_withField_eq_next h)
  | pack v buf off len =>
    have hput := calls_eq_of_returns_eq_next (eq_next_of_withField_eq_next h)
    exact hput.trans (State.putCells_calls s buf _)
  | extractField c startBit width => exact calls_eq_of_returns_eq_next (eq_next_of_withinByte_eq_next h)
  | packField v startBit width => exact calls_eq_of_returns_eq_next (eq_next_of_withinByte_eq_next h)
  | init => exact absurd rfl hinit
  | readTxn => exact absurd rfl htxn
  | read => exact absurd rfl hread
  | _ => exact calls_eq_of_returns_eq_next h

theorem exec_init_calls {s t : State} (h : exec .init s = .next t) : t.calls = .init s.addr :: s.calls :=
  (calls_eq_of_returns_eq_next h).trans (State.callInit_calls s)

theorem exec_readTxn_calls {s t : State} (h : exec .readTxn s = .next t) :
    t.calls = .readTxn s.addr 3 :: s.calls :=
  (calls_eq_of_returns_eq_next h).trans (State.callTxn_calls s)

/-- READ makes one READTXN call, whatever it makes of the answer (R152: no retry). -/
theorem exec_read_calls {s t : State} (h : exec .read s = .next t) : t.calls = .readTxn s.addr 3 :: s.calls :=
  (calls_eq_of_returns_eq_next h).trans (State.callTxn_calls s)

/-- Settles O38: INIT, READTXN and READ send the one message of their one call, and every other operation sends none. -/
theorem onlyInitAndReadTxnCross : Obligations.OnlyInitAndReadTxnCross := by
  intro i s t h
  by_cases hinit : i = .init
  · subst hinit
    exact .inl ⟨rfl, exec_init_calls h⟩
  by_cases htxn : i = .readTxn
  · subst htxn
    exact .inr (.inl ⟨.inl rfl, exec_readTxn_calls h⟩)
  by_cases hread : i = .read
  · subst hread
    exact .inr (.inl ⟨.inr rfl, exec_read_calls h⟩)
  exact .inr (.inr ⟨hinit, htxn, hread, exec_calls_of_not_transport hinit htxn hread h⟩)

end Sys2Proof.Machine
end

section
/-! PROOF. The laws of the codec (spec/40_bitfield_codec.md section 3): EXTRACT and PACK are told apart from nothing but
the bits of a field, so each law is a statement about one bit of a value against one cell of a buffer. -/

namespace Sys2Proof.Machine

/-- Bit j of the field's value is the field's cell n-1-j (R41: most significant cell first). -/
theorem testBit_extractBits (buf : Cells) (off : Nat) {n j : Nat} (hj : j < n) :
    (extractBits buf off n).testBit j = bufRead buf (off + (n - 1 - j)) := by
  induction n generalizing off with
  | zero => omega
  | succ n ih =>
    rw [extractBits_succ, Nat.mul_comm, Nat.testBit_two_pow_mul_add _ (extractBits_lt buf (off + 1) n)]
    split
    · next hlow =>
      rw [ih (off + 1) hlow]
      congr 1
      omega
    · next hhigh =>
      obtain rfl : j = n := by omega
      rw [show off + (j + 1 - 1 - j) = off by omega, Nat.sub_self]
      cases bufRead buf off <;> rfl

/-- A field that shows bits n-1 down to 0 of a number holds that number mod 2^n. -/
theorem extractBits_eq_mod {buf : Cells} {off n value : Nat}
    (h : ∀ i, i < n → bufRead buf (off + i) = value.testBit (n - 1 - i)) :
    extractBits buf off n = value % 2 ^ n := by
  apply Nat.eq_of_testBit_eq
  intro j
  rw [Nat.testBit_mod_two_pow]
  by_cases hj : j < n
  · have hbit : n - 1 - (n - 1 - j) = j := by omega
    rw [testBit_extractBits buf off hj, h _ (by omega), hbit]
    simp [hj]
  · have hlt : extractBits buf off n < 2 ^ j :=
      (extractBits_lt buf off n).trans_le (Nat.pow_le_pow_right (by decide) (by omega))
    simp [hj, Nat.testBit_lt_two_pow hlt]

/-- EXTRACT reads nothing but the cells of its field. -/
theorem extractBits_congr {buf buf' : Cells} {off n : Nat}
    (h : ∀ i, i < n → bufRead buf (off + i) = bufRead buf' (off + i)) :
    extractBits buf off n = extractBits buf' off n := by
  induction n generalizing off with
  | zero => rfl
  | succ n ih =>
    have hrest : ∀ i, i < n → bufRead buf (off + 1 + i) = bufRead buf' (off + 1 + i) := by
      intro i hi
      have := h (i + 1) (by omega)
      rwa [Nat.add_comm i 1, ← Nat.add_assoc] at this
    rw [extractBits_succ, extractBits_succ, ih hrest, show bufRead buf off = bufRead buf' off from h 0 (by omega)]

/-- Law L5: the m cells at `a` inside a packed field show the value shifted right by the cells after them. -/
theorem extractBits_packBits_inside (value : Nat) (buf : Cells) {off len a m : Nat} (ha : a + m ≤ len)
    (hN : off + len ≤ buf.length) :
    extractBits (packBits value buf off len) (off + a) m = value / 2 ^ (len - a - m) % 2 ^ m := by
  apply extractBits_eq_mod
  intro i hi
  rw [Nat.add_assoc, bufRead_packBits_inside value buf off len (a + i) (by omega) hN, Nat.testBit_div_two_pow]
  congr 1
  omega

/-- Law L1: the whole of a packed field shows the value's low bits. -/
theorem extractBits_packBits_same (value : Nat) (buf : Cells) {off len : Nat} (hN : off + len ≤ buf.length) :
    extractBits (packBits value buf off len) off len = value % 2 ^ len := by
  simpa using extractBits_packBits_inside value buf (a := 0) (m := len) (by omega) hN

/-- Law L4 on one buffer: a disjoint field shows what it showed before. -/
theorem extractBits_packBits_disjoint (value : Nat) (buf : Cells) {off len off' len' : Nat}
    (h : off' + len' ≤ off ∨ off + len ≤ off') :
    extractBits (packBits value buf off len) off' len' = extractBits buf off' len' :=
  extractBits_congr fun i hi => bufRead_packBits_outside value buf off len (off' + i) (by omega)

/-- Law L3: writing a field's own value changes no cell. -/
theorem packBits_extractBits (buf : Cells) {off len : Nat} (hN : off + len ≤ buf.length) :
    packBits (extractBits buf off len) buf off len = buf := by
  apply cells_ext _ _ (length_packBits _ _ _ _)
  intro k _
  by_cases hin : off ≤ k ∧ k < off + len
  · obtain ⟨i, rfl⟩ := Nat.exists_eq_add_of_le hin.1
    have hcell : len - 1 - (len - 1 - i) = i := by omega
    rw [bufRead_packBits_inside _ buf off len i (by omega) hN, testBit_extractBits buf off (by omega), hcell]
  · exact bufRead_packBits_outside _ buf off len k (by omega)

/-- Law L6: of two writes of one field the later one stands alone. -/
theorem packBits_packBits (v w : Nat) (buf : Cells) {off len : Nat} (hN : off + len ≤ buf.length) :
    packBits w (packBits v buf off len) off len = packBits w buf off len := by
  apply cells_ext
  · simp
  intro k _
  by_cases hin : off ≤ k ∧ k < off + len
  · obtain ⟨i, rfl⟩ := Nat.exists_eq_add_of_le hin.1
    rw [bufRead_packBits_inside w _ off len i (by omega) (by rwa [length_packBits]),
      bufRead_packBits_inside w buf off len i (by omega) hN]
  · rw [bufRead_packBits_outside w _ off len k (by omega), bufRead_packBits_outside v buf off len k (by omega),
      bufRead_packBits_outside w buf off len k (by omega)]

/-- Law L7: the first m cells weigh 2^n each more than the n cells after them. -/
theorem extractBits_add (buf : Cells) (off m n : Nat) :
    extractBits buf off (m + n) = extractBits buf off m * 2 ^ n + extractBits buf (off + m) n := by
  induction m generalizing off with
  | zero => simp [extractBits, extractLoop]
  | succ m ih =>
    have hoff : off + 1 + m = off + (m + 1) := by omega
    rw [Nat.succ_add_eq_add_succ, Nat.add_succ, extractBits_succ, ih, extractBits_succ, hoff, pow_add]
    ring

/-- A field in contract has a cell, so the new buffer is listed. -/
theorem packBits_ne_nil (value : Nat) {buf : Cells} {off len : Nat} (h1 : 1 ≤ len) (hN : off + len ≤ buf.length) :
    packBits value buf off len ≠ [] := by
  rw [← List.length_pos_iff, length_packBits]
  omega

/-- A buffer that has cells stands behind every number that the whole list is above. -/
theorem Memory.lt_of_get_ne_nil {m : Memory} {b k : Nat} (hb : m.all (fun e => decide (b < e.1)) = true)
    (h : Memory.get m k ≠ []) : b < k := by
  induction m with
  | nil => exact absurd rfl h
  | cons e m ih =>
    obtain ⟨k0, c0⟩ := e
    simp only [List.all_cons, Bool.and_eq_true, decide_eq_true_eq] at hb
    by_cases hk : k0 = k
    · exact hk ▸ hb.1
    · rw [Memory.get, if_neg hk] at h
      exact ih hb.2 h

/-- Writing back the cells a listed buffer has changes nothing. -/
theorem Memory.set_get {m : Memory} {k : Nat} (hwf : Memory.wf m = true) (h : Memory.get m k ≠ []) :
    Memory.set m k (Memory.get m k) = m := by
  induction m with
  | nil => exact absurd rfl h
  | cons e m ih =>
    obtain ⟨k0, c0⟩ := e
    simp only [Memory.wf, Bool.and_eq_true] at hwf
    obtain ⟨⟨hc0, hrising⟩, hwf⟩ := hwf
    by_cases hk : k0 = k
    · subst hk
      have hempty : ¬c0.isEmpty = true := by simpa using hc0
      simp [Memory.set, Memory.get, hempty]
    · rw [Memory.get, if_neg hk] at h ⊢
      have hlt : k0 < k := Memory.lt_of_get_ne_nil hrising h
      rw [Memory.set, if_neg (by omega), if_neg (Ne.symm hk), ih hwf h]

/-- Of two writes of one buffer the later one stands alone, in whatever order the buffers are listed. -/
theorem Memory.set_set (m : Memory) (k : Nat) {c d : Cells} (hc : c ≠ []) (hd : d ≠ []) :
    Memory.set (Memory.set m k c) k d = Memory.set m k d := by
  have hce : ¬c.isEmpty = true := by rwa [List.isEmpty_iff]
  have hde : ¬d.isEmpty = true := by rwa [List.isEmpty_iff]
  induction m with
  | nil => simp [Memory.set, hce, hde]
  | cons e m ih =>
    obtain ⟨k0, c0⟩ := e
    by_cases hlt : k < k0
    · simp [Memory.set, hlt, hce, hde]
    · by_cases hk : k = k0
      · simp [Memory.set, hk, hce, hde]
      · simp [Memory.set, hlt, hk, ih]

/-- In contract PACK on a buffer of the caller leaves it with the packed cells and changes nothing else. -/
theorem exec_pack_caller (s : State) (value k : Nat) {off len : Nat} (h1 : 1 ≤ len) (h2 : len ≤ 32)
    (hN : off + len ≤ (Memory.get s.bufs k).length) :
    exec (.pack value (.caller k) off len) s =
      .next { s with bufs := Memory.set s.bufs k (packBits value (Memory.get s.bufs k) off len)
                     result := .buffer (packBits value (Memory.get s.bufs k) off len) } :=
  exec_pack_of_contract s value (.caller k) h1 h2 hN

/-- In contract EXTRACT of a buffer whose cells are known returns their value. -/
theorem exec_extract_caller {s : State} {k : Nat} {c : Cells} (hget : Memory.get s.bufs k = c) {off len : Nat}
    (h1 : 1 ≤ len) (h2 : len ≤ 32) (hN : off + len ≤ c.length) :
    exec (.extract (.caller k) off len) s = .next { s with result := .value (extractBits c off len) } := by
  subst hget
  exact exec_extract_of_contract s (.caller k) h1 h2 hN

/-- The cells PACK left in a buffer of the caller are read back from it. -/
theorem Memory.get_set_packBits (m : Memory) (value k : Nat) {off len : Nat} (h1 : 1 ≤ len)
    (hN : off + len ≤ (Memory.get m k).length) :
    Memory.get (Memory.set m k (packBits value (Memory.get m k) off len)) k =
      packBits value (Memory.get m k) off len :=
  Memory.get_set_same_of_ne_nil m k (packBits_ne_nil value h1 hN)

/-- Settles O4: the field of the packed buffer holds the value mod 2^length (laws L1 and L2). -/
theorem packThenExtractTruncates : Obligations.PackThenExtractTruncates := by
  intro s value k off len h1 h2 hN
  refine ⟨_, exec_pack_caller s value k h1 h2 hN, ?_, Nat.mod_eq_of_lt⟩
  rw [exec_extract_caller (Memory.get_set_packBits s.bufs value k h1 hN) h1 h2 (by rwa [length_packBits]),
    extractBits_packBits_same value _ hN]

/-- Settles O5: the packed buffer is the old one (law L3), and putting it back changes no canonical list. -/
theorem extractThenPackRestores : Obligations.ExtractThenPackRestores := by
  intro s k off len hwf h1 h2 hN
  refine ⟨_, exec_extract_caller rfl h1 h2 hN, ?_⟩
  have hcells : Memory.get s.bufs k ≠ [] := by
    rw [← List.length_pos_iff]
    omega
  rw [exec_pack_caller s _ k h1 h2 hN, packBits_extractBits _ hN, Memory.set_get hwf hcells]

/-- Settles O6: another buffer keeps its cells, and in the same buffer a disjoint field keeps its value (law L4). -/
theorem extractOfOtherFieldUnaffectedByPack : Obligations.ExtractOfOtherFieldUnaffectedByPack := by
  intro s value k off len j off' len' h1 h2 hN h1' h2' hN' hdisjoint
  refine ⟨_, _, exec_pack_caller s value k h1 h2 hN, exec_extract_caller rfl h1' h2' hN', ?_⟩
  by_cases hjk : j = k
  · subst hjk
    have hfield : off' + len' ≤ off ∨ off + len ≤ off' := hdisjoint.resolve_left (· rfl)
    rw [exec_extract_caller (Memory.get_set_packBits s.bufs value j h1 hN) h1' h2' (by rwa [length_packBits]),
      extractBits_packBits_disjoint value _ hfield]
  · exact exec_extract_caller (Memory.get_set_other _ _ _ _ hjk) h1' h2' hN'

/-- Settles O7: law L5 on the cells PACK left in the buffer. -/
theorem subFieldOfPackedField : Obligations.SubFieldOfPackedField := by
  intro s value k off len a m h1 h2 hN hm ha
  refine ⟨_, exec_pack_caller s value k h1 h2 hN, ?_⟩
  rw [exec_extract_caller (Memory.get_set_packBits s.bufs value k h1 hN) hm (by omega)
      (by rw [length_packBits]; omega),
    extractBits_packBits_inside value _ ha hN]

/-- Settles O8: the second PACK finds the cells the first one left, and overwrites them (law L6). -/
theorem laterPackOverwrites : Obligations.LaterPackOverwrites := by
  intro s v w k off len h1 h2 hN
  have hget := Memory.get_set_packBits s.bufs v k h1 hN
  have hN' : off + len ≤ (packBits v (Memory.get s.bufs k) off len).length := by rwa [length_packBits]
  refine ⟨_, _, exec_pack_caller s v k h1 h2 hN, ?twice, exec_pack_caller s w k h1 h2 hN, ?read⟩
  case twice =>
    rw [exec_pack_caller _ w k h1 h2 (by rwa [hget])]
    simp only [hget]
    rw [packBits_packBits v w _ hN, Memory.set_set _ _ (packBits_ne_nil v h1 hN) (packBits_ne_nil w h1 hN)]
  case read =>
    rw [exec_extract_caller (Memory.get_set_packBits s.bufs w k h1 hN) h1 h2 (by rwa [length_packBits]),
      extractBits_packBits_same w _ hN]

/-- Settles O9: all three fields are in contract, and the value of the joined one is their sum (law L7). -/
theorem adjacentFieldsConcatenate : Obligations.AdjacentFieldsConcatenate := by
  intro s b off m n hm hn h32 hN
  refine ⟨_, _, exec_extract_of_contract s b hm (by omega) (by omega),
    exec_extract_of_contract s b hn (by omega) (by omega), ?_⟩
  rw [exec_extract_of_contract s b (by omega) h32 hN, extractBits_add]

/-- Settles O3: the length is looked at first, then the bounds. -/
theorem codecRefusedOutOfContract : Obligations.CodecRefusedOutOfContract := by
  intro s value b off len
  constructor
  · intro hlen
    exact ⟨withField_of_bad_length _ _ _ _ hlen, withField_of_bad_length _ _ _ _ hlen⟩
  · intro h1 h2 hN
    exact ⟨withField_of_bad_bounds _ _ _ _ h1 h2 hN, withField_of_bad_bounds _ _ _ _ h1 h2 hN⟩

end Sys2Proof.Machine
end

section
/-! PROOF. The shift-and-mask operations on a byte (spec/40_bitfield_codec.md section 4): their bit operations are a
quotient and a remainder, which is what law L5 gives for the image of the byte. -/

namespace Sys2Proof.Machine

theorem fieldOfByte_eq (c : Byte) (startBit width : Nat) :
    fieldOfByte c startBit width = c.toNat / 2 ^ startBit % 2 ^ width := by
  rw [fieldOfByte, Nat.and_two_pow_sub_one_eq_mod, Nat.shiftRight_eq_div_pow]

theorem exec_extractField_of_range (s : State) (c : Byte) {startBit width : Nat} (h1 : 1 ≤ width)
    (h8 : startBit + width ≤ 8) :
    exec (.extractField c startBit width) s =
      .next { s with result := .field (c.toNat / 2 ^ startBit % 2 ^ width) } := by
  rw [← fieldOfByte_eq]
  exact if_pos ((fieldOk_iff startBit width).2 ⟨h1, h8⟩)

theorem withinByte_of_bad_range {startBit width : Nat} (h : ¬(1 ≤ width ∧ startBit + width ≤ 8)) (op : Out) :
    withinByte startBit width op = .refused .fieldOutOfRange :=
  if_neg fun hok => h ((fieldOk_iff startBit width).1 hok)

/-- In range the shifted field fits the byte, so none of its bits is lost (R95). -/
theorem toNat_maskOfField (value : Nat) {startBit width : Nat} (h8 : startBit + width ≤ 8) :
    (maskOfField value startBit width).toNat = value % 2 ^ width * 2 ^ startBit := by
  have hfits : value % 2 ^ width * 2 ^ startBit < 2 ^ 8 :=
    calc value % 2 ^ width * 2 ^ startBit < 2 ^ width * 2 ^ startBit :=
          Nat.mul_lt_mul_of_pos_right (Nat.mod_lt _ (Nat.two_pow_pos _)) (Nat.two_pow_pos _)
      _ = 2 ^ (startBit + width) := by rw [← pow_add, Nat.add_comm]
      _ ≤ 2 ^ 8 := Nat.pow_le_pow_right (by decide) h8
  rw [maskOfField, BitVec.toNat_ofNat, Nat.shiftLeft_eq, Nat.mod_eq_of_lt hfits]

/-- Settles O10: the shift and mask are a quotient and a remainder; the field of the byte's image in any 8-cell buffer
that ends `startBit` cells before its end is the same number, by law L5. -/
theorem extractFieldShiftsAndMasks : Obligations.ExtractFieldShiftsAndMasks := by
  intro s c startBit width
  refine ⟨fun h1 h8 => ⟨exec_extractField_of_range s c h1 h8, fun buf8 hbuf => ?_⟩,
    fun h => withinByte_of_bad_range h _⟩
  have hshift : 8 - (8 - startBit - width) - width = startBit := by omega
  have hfield := extractBits_packBits_inside c.toNat buf8 (off := 0) (len := 8) (a := 8 - startBit - width)
    (m := width) (by omega) (by omega)
  rw [Nat.zero_add, hshift] at hfield
  refine ⟨packBits c.toNat buf8 0 8, ?image, ?field⟩
  case image => exact exec_pack_of_contract s c.toNat (.lit buf8) (by decide) (by decide) (by simp [hbuf])
  case field =>
    rw [exec_extract_of_contract s (.lit _) h1 (by omega) (by rw [State.cells_lit, length_packBits]; omega),
      State.cells_lit, hfield]

/-- Settles O11: the mask holds the field shifted left, and dividing by the same power of two gives it back. -/
theorem packFieldBuildsMask : Obligations.PackFieldBuildsMask := by
  intro s value startBit width
  refine ⟨fun h1 h8 => ⟨_, toNat_maskOfField value h8, ?mask, ?readBack⟩, fun h => withinByte_of_bad_range h _⟩
  case mask => exact if_pos ((fieldOk_iff startBit width).2 ⟨h1, h8⟩)
  case readBack =>
    rw [exec_extractField_of_range s _ h1 h8, toNat_maskOfField value h8,
      Nat.mul_div_cancel _ (Nat.two_pow_pos _), Nat.mod_mod]

end Sys2Proof.Machine
end

section
/-! PROOF. The Reading as a word (spec/41_reading_scaler.md): its number of sixteenths is the high byte's 256 and the
low byte added up, which is the fixed-point word, orders as the pair of bytes does, and fits the fraction of both
floating-point views. -/

namespace Sys2Proof.Machine

/-- The number of sixteenths is the concatenation of the bytes: the high byte counts 256 of them (R111). -/
theorem sixteenths_scaleOf (high low : Byte) : (scaleOf high low).sixteenths = high.toNat * 256 + low.toNat := by
  change 16 * (high.toNat * 16) + low.toNat = high.toNat * 256 + low.toNat
  omega

theorem sixteenths_scaleOf_le (high low : Byte) : (scaleOf high low).sixteenths ≤ 65535 := by
  have hhigh := high.isLt
  have hlow := low.isLt
  rw [sixteenths_scaleOf]
  omega

/-- The port word of a Reading in its domain holds all of its sixteenths. -/
theorem toNat_readingQ_scaleOf (high low : Byte) :
    (readingQ (scaleOf high low)).toNat = (scaleOf high low).sixteenths := by
  have hle := sixteenths_scaleOf_le high low
  rw [readingQ, BitVec.toNat_ofNat, Nat.mod_eq_of_lt (by omega)]

theorem readingQ_scaleOf (high low : Byte) : readingQ (scaleOf high low) = high ++ low := by
  apply BitVec.eq_of_toNat_eq
  rw [toNat_readingQ_scaleOf, sixteenths_scaleOf, BitVec.toNat_append, ← Nat.shiftLeft_add_eq_or_of_lt low.isLt,
    Nat.shiftLeft_eq]

/-- Settles O13: the port word is the number of sixteenths, which is at most 65535. -/
theorem readingIsFixedPointWord : Obligations.ReadingIsFixedPointWord := by
  intro s high low
  have hle : ((scaleOf high low).sixteenths : Rat) ≤ 65535 := by exact_mod_cast sixteenths_scaleOf_le high low
  have hnonneg : (0 : Rat) ≤ (scaleOf high low).sixteenths := Nat.cast_nonneg _
  refine ⟨_, exec_scale s high low, readingQ_scaleOf high low, ?_, ?_, ?_⟩
  · rw [toNat_readingQ_scaleOf, Reading.toRat]
  · rw [Reading.toRat]
    linarith
  · rw [Reading.toRat]
    linarith

theorem toRat_lt_toRat_iff (a b : Reading) : a.toRat < b.toRat ↔ a.sixteenths < b.sixteenths := by
  rw [Reading.toRat, Reading.toRat, div_lt_div_iff_of_pos_right (by norm_num), Nat.cast_lt]

/-- Settles O14: with a low byte below 256, the numbers of sixteenths order as the pairs of bytes do. -/
theorem scaleStrictlyIncreasing : Obligations.ScaleStrictlyIncreasing := by
  intro s high low high' low'
  refine ⟨_, _, exec_scale s high low, exec_scale s high' low', ?_⟩
  have hlow := low.isLt
  have hlow' := low'.isLt
  rw [toRat_lt_toRat_iff, sixteenths_scaleOf, sixteenths_scaleOf, ← BitVec.toNat_inj]
  omega

/-! The floating-point views (R114): a format with f fraction bits and a number w of at most f + 1 bits, its leading 1
at position p. The pattern's number is `(p + e) * 2^f` plus a fraction below 2^f. -/

/-- The pattern of w > 0, as both views build it: the exponent p + e over the f bits below the leading 1. -/
def floatBits (f e w : Nat) : Nat := (Nat.log2 w + e) <<< f + (w - 2 ^ Nat.log2 w) <<< (f - Nat.log2 w)

section
variable {f w : Nat} (e : Nat) (hw : w ≠ 0) (hf : Nat.log2 w ≤ f)
include hw hf

/-- The bits below the leading 1, moved up to fill the fraction field. -/
theorem two_pow_add_fraction : 2 ^ f + (w - 2 ^ Nat.log2 w) * 2 ^ (f - Nat.log2 w) = w * 2 ^ (f - Nat.log2 w) := by
  have hlead : 2 ^ Nat.log2 w ≤ w := Nat.log2_self_le hw
  rw [Nat.sub_mul, ← pow_add, Nat.add_sub_cancel' hf]
  have hle : 2 ^ f ≤ w * 2 ^ (f - Nat.log2 w) := by
    calc 2 ^ f = 2 ^ Nat.log2 w * 2 ^ (f - Nat.log2 w) := by rw [← pow_add, Nat.add_sub_cancel' hf]
      _ ≤ _ := Nat.mul_le_mul_right _ hlead
  omega

theorem fraction_lt : (w - 2 ^ Nat.log2 w) * 2 ^ (f - Nat.log2 w) < 2 ^ f := by
  have hlt : w * 2 ^ (f - Nat.log2 w) < 2 ^ f + 2 ^ f :=
    calc w * 2 ^ (f - Nat.log2 w) < 2 ^ (Nat.log2 w + 1) * 2 ^ (f - Nat.log2 w) :=
          Nat.mul_lt_mul_of_pos_right Nat.lt_log2_self (Nat.two_pow_pos _)
      _ = 2 ^ f + 2 ^ f := by rw [← pow_add, Nat.add_right_comm, Nat.add_sub_cancel' hf, pow_succ, Nat.mul_two]
  have hsum := two_pow_add_fraction hw hf
  omega

theorem floatBits_div : floatBits f e w / 2 ^ f = Nat.log2 w + e := by
  rw [floatBits, Nat.shiftLeft_eq, Nat.shiftLeft_eq, Nat.mul_comm, Nat.mul_add_div (Nat.two_pow_pos _),
    Nat.div_eq_of_lt (fraction_lt hw hf), Nat.add_zero]

theorem floatBits_mod : floatBits f e w % 2 ^ f = (w - 2 ^ Nat.log2 w) * 2 ^ (f - Nat.log2 w) := by
  rw [floatBits, Nat.shiftLeft_eq, Nat.shiftLeft_eq, Nat.mul_comm, Nat.mul_add_mod,
    Nat.mod_eq_of_lt (fraction_lt hw hf)]

/-- The significand times the power of its exponent: nothing of w is lost. -/
theorem floatBits_significand :
    (2 ^ f + floatBits f e w % 2 ^ f) * 2 ^ (floatBits f e w / 2 ^ f) = w * 2 ^ (f + e) := by
  rw [floatBits_mod e hw hf, floatBits_div e hw hf, two_pow_add_fraction hw hf, Nat.mul_assoc, ← pow_add]
  congr 2
  omega

/-- The number the pattern stands for under the bias f + e + 4 is w sixteenths. -/
theorem floatBits_value :
    ((2 ^ f + floatBits f e w % 2 ^ f : Nat) : Rat) * 2 ^ (floatBits f e w / 2 ^ f) / 2 ^ (f + e + 4) = w / 16 := by
  have hsig : ((2 ^ f + floatBits f e w % 2 ^ f : Nat) : Rat) * 2 ^ (floatBits f e w / 2 ^ f) = w * 2 ^ (f + e) := by
    exact_mod_cast floatBits_significand e hw hf
  rw [hsig, pow_add _ (f + e) 4, mul_comm (w : Rat), mul_div_mul_left _ _ (by positivity)]
  norm_num

/-- With an exponent field below m the pattern is below m * 2^f; with one above zero it is at least 2^f. -/
theorem floatBits_lt {m : Nat} (hm : Nat.log2 w + e < m) : floatBits f e w < m * 2 ^ f :=
  (Nat.div_lt_iff_lt_mul (Nat.two_pow_pos f)).1 ((floatBits_div e hw hf).trans_lt hm)

theorem le_floatBits (he : 0 < e) : 2 ^ f ≤ floatBits f e w := by
  have hpos : 1 ≤ floatBits f e w / 2 ^ f := by
    rw [floatBits_div e hw hf]
    omega
  simpa using (Nat.le_div_iff_mul_le (Nat.two_pow_pos f)).1 hpos

/-- A word that holds the pattern is not zero, stands for w sixteenths, and has an exponent field from 1 to m - 1. -/
theorem normal_of_toNat_eq {n m : Nat} {x : BitVec n} (hx : x.toNat = floatBits f e w) (he : 0 < e)
    (hm : Nat.log2 w + e < m) :
    x ≠ 0 ∧ ((2 ^ f + x.toNat % 2 ^ f : Nat) : Rat) * 2 ^ (x.toNat / 2 ^ f) / 2 ^ (f + e + 4) = w / 16 ∧
      2 ^ f ≤ x.toNat ∧ x.toNat < m * 2 ^ f := by
  have hge : 2 ^ f ≤ x.toNat := hx ▸ le_floatBits e hw hf he
  refine ⟨?_, hx ▸ floatBits_value e hw hf, hge, hx ▸ floatBits_lt e hw hf hm⟩
  rintro rfl
  have hpos := Nat.two_pow_pos f
  have hzero : (0 : BitVec n).toNat = 0 := BitVec.toNat_zero
  omega

end

/-- The leading 1 of a 16-bit number is one of its 16 bits. -/
theorem log2_le_of_le_65535 {w : Nat} (hw : w ≠ 0) (h : w ≤ 65535) : Nat.log2 w ≤ 15 :=
  Nat.le_of_lt_succ ((Nat.log2_lt hw).2 (by omega))

section
variable {r : Reading} (hr : r.sixteenths ≠ 0) (hle : r.sixteenths ≤ 65535)
include hr hle

theorem toNat_binary32 : (binary32 r).toNat = floatBits 23 123 r.sixteenths := by
  have hlog := log2_le_of_le_65535 hr hle
  have hlt : floatBits 23 123 r.sixteenths < 255 * 2 ^ 23 := floatBits_lt 123 hr (by omega) (by omega)
  have hbits : binary32 r = BitVec.ofNat 32 (floatBits 23 123 r.sixteenths) := if_neg hr
  rw [hbits, BitVec.toNat_ofNat, Nat.mod_eq_of_lt (by omega)]

theorem toNat_binary64 : (binary64 r).toNat = floatBits 52 1019 r.sixteenths := by
  have hlog := log2_le_of_le_65535 hr hle
  have hlt : floatBits 52 1019 r.sixteenths < 2047 * 2 ^ 52 := floatBits_lt 1019 hr (by omega) (by omega)
  have hbits : binary64 r = BitVec.ofNat 64 (floatBits 52 1019 r.sixteenths) := if_neg hr
  rw [hbits, BitVec.toNat_ofNat, Nat.mod_eq_of_lt (by omega)]

/-- A positive Reading is a normal number of binary32 that stands for it. -/
theorem binary32_normal :
    valueOfBinary32 (binary32 r) = r.toRat ∧ 2 ^ 23 ≤ (binary32 r).toNat ∧ (binary32 r).toNat < 255 * 2 ^ 23 := by
  have hlog := log2_le_of_le_65535 hr hle
  obtain ⟨hne, hvalue, hge, hlt⟩ := normal_of_toNat_eq (m := 255) 123 hr (by omega)
    (toNat_binary32 hr hle) (by decide) (by omega)
  exact ⟨(if_neg hne).trans hvalue, hge, hlt⟩

/-- A positive Reading is a normal number of binary64 that stands for it. -/
theorem binary64_normal :
    valueOfBinary64 (binary64 r) = r.toRat ∧ 2 ^ 52 ≤ (binary64 r).toNat ∧ (binary64 r).toNat < 2047 * 2 ^ 52 := by
  have hlog := log2_le_of_le_65535 hr hle
  obtain ⟨hne, hvalue, hge, hlt⟩ := normal_of_toNat_eq (m := 2047) 1019 hr (by omega)
    (toNat_binary64 hr hle) (by decide) (by omega)
  exact ⟨(if_neg hne).trans hvalue, hge, hlt⟩

end

/-- The Reading 0 is +0.0 in both formats. -/
theorem binary_views_of_zero {r : Reading} (hr : r.sixteenths = 0) : binary32 r = 0 ∧ binary64 r = 0 ∧ r.toRat = 0 := by
  refine ⟨if_pos hr, if_pos hr, ?_⟩
  rw [Reading.toRat, hr, Nat.cast_zero, zero_div]

/-- Settles O15: 0 is +0.0, and a positive Reading, whose 16 bits fit both fractions, is a normal number. -/
theorem floatViewsAreExact : Obligations.FloatViewsAreExact := by
  intro s high low
  refine ⟨_, exec_scale s high low, ?_⟩
  have hle := sixteenths_scaleOf_le high low
  by_cases hr : (scaleOf high low).sixteenths = 0
  · obtain ⟨h32, h64, hrat⟩ := binary_views_of_zero hr
    rw [h32, h64, hrat]
    exact ⟨if_pos rfl, if_pos rfl, by decide, by decide, fun h => absurd h (lt_irrefl _)⟩
  · obtain ⟨hvalue32, hge32, hlt32⟩ := binary32_normal hr hle
    obtain ⟨hvalue64, hge64, hlt64⟩ := binary64_normal hr hle
    exact ⟨hvalue32, hvalue64, hlt32, hlt64, fun _ => ⟨hge32, hge64⟩⟩

end Sys2Proof.Machine
end

section
/-! PROOF. The fields of a configuration byte as slices of its bits (spec/30_encoding.md R62, R72): an ordinal is its
slice's number, so the members and the port codes follow from the slices alone. -/

namespace Sys2Proof.Machine

/-- A two-bit slice is its two bits, the higher one first. -/
theorem toNat_extractLsb'_two (c : Byte) (k : Nat) :
    (c.extractLsb' k 2).toNat = 2 * (c.getLsbD (k + 1)).toNat + (c.getLsbD k).toNat := by
  rw [BitVec.extractLsb'_toNat, Nat.shiftRight_eq_div_pow, BitVec.getLsbD, BitVec.getLsbD, Nat.toNat_testBit,
    Nat.toNat_testBit, pow_succ 2 k, ← Nat.div_div_eq_div_mul]
  omega

/-- A one-bit slice is its bit. -/
theorem ofBool_getLsbD (c : Byte) (k : Nat) : BitVec.ofBool (c.getLsbD k) = c.extractLsb' k 1 := by
  ext i hi
  obtain rfl : i = 0 := by omega
  simp

theorem rateOrdinal_eq_toNat (c : Byte) : rateOrdinal c = (c.extractLsb' 2 2).toNat :=
  (rateOrdinal_eq c).trans (toNat_extractLsb'_two c 2).symm

theorem gainOrdinal_eq_toNat (c : Byte) : gainOrdinal c = (c.extractLsb' 0 2).toNat :=
  (gainOrdinal_eq c).trans (toNat_extractLsb'_two c 0).symm

/-- The shift-and-mask form of a slice (R8). -/
theorem slice_eq_toNat (c : Byte) (hi lo : Nat) : slice c hi lo = (c.extractLsb' lo (hi - lo + 1)).toNat := by
  rw [slice, Nat.and_two_pow_sub_one_eq_mod, BitVec.extractLsb'_toNat]

/-- The shift-and-mask form of a bit (R8). -/
theorem bitOf_eq_toNat (c : Byte) (i : Nat) : bitOf c i = (c.getLsbD i).toNat := by
  rw [bitOf, BitVec.getLsbD, Nat.toNat_testBit, Nat.and_one_is_mod, Nat.shiftRight_eq_div_pow]

/-- Settles O25: cell k of the image is bit 7 - k, and a two-cell field is the slice of those bits. -/
theorem operandFormsAgree : Obligations.OperandFormsAgree := by
  intro c
  refine ⟨?ready, ?mode, ?rate, ?gain⟩
  case ready => rw [readyLow, bufRead_image8 c (by decide), readyLowShift, bitOf_eq_toNat]
  case mode => rw [modeBit_eq, modeBitShift, bitOf_eq_toNat]
  case rate => rw [rateOrdinal_eq_toNat, rateOrdinalShift, slice_eq_toNat]
  case gain => rw [gainOrdinal_eq_toNat, gainOrdinalShift, slice_eq_toNat]

/-! Members and port codes (R66 to R68, R70). -/

/-- MODE's port carries the bit it was decoded from: no inversion (R65). -/
theorem ofNat_modePort_modeOf (b : Bit) : BitVec.ofNat 1 (modePort (modeOf b)) = BitVec.ofBool b := by
  cases b <;> rfl

theorem rateOrd_rateOf {n : Nat} (h : n < 4) : rateOrd (rateOf n) = n := by
  interval_cases n <;> rfl

/-- On the ordinals of a byte the gain port carries the ordinal, and 7 in place of the reserved one. -/
theorem gainCode_gainOf {n : Nat} (h : n < 4) : gainCode (gainOf n) = if n = 3 then 7 else n := by
  interval_cases n <;> rfl

/-- A code that no member has as its value is mapped to Unknown (R68). -/
theorem gainOf_eq_unknown_iff (code : Nat) : gainOf code = .unknown ↔ code ∉ [0, 1, 2, 4] := by
  unfold gainOf
  split <;> simp_all

theorem gainValue_gainOf {code : Nat} (h : gainOf code ≠ .unknown) : gainValue (gainOf code) = some code := by
  have hmem : code ∈ [0, 1, 2, 4] := by rwa [ne_eq, gainOf_eq_unknown_iff, not_not] at h
  fin_cases hmem <;> rfl

/-- On the ordinals of a byte X8, whose code is 4, is out of reach (R123). -/
theorem gainOf_ne_x8 {n : Nat} (h : n < 4) : gainOf n ≠ .x8 := by
  interval_cases n <;> decide

theorem gainOf_eq_unknown_iff_of_lt {n : Nat} (h : n < 4) : gainOf n = .unknown ↔ n = 3 := by
  interval_cases n <;> decide

/-- RSVD reports exactly the bytes whose gain is Unknown (R125). -/
theorem rsvdFlag_eq_true_iff (c : Byte) : rsvdFlag c = true ↔ gainOf (gainOrdinal c) = .unknown := by
  rw [rsvdFlag, beq_iff_eq, gainOf_eq_unknown_iff_of_lt (gainOrdinal_lt c)]

theorem rsvdFlag_eq (c : Byte) : rsvdFlag c = (c.getLsbD 1 && c.getLsbD 0) := by
  rw [rsvdFlag, gainOrdinal_eq]
  cases c.getLsbD 1 <;> cases c.getLsbD 0 <;> rfl

theorem exec_gain (s : State) (c : Byte) :
    exec (.gain c) s = .next { s with result := .gain (gainOrdinal c) (gainOf (gainOrdinal c)) } := rfl

theorem exec_gainMap (s : State) (code : Nat) :
    exec (.gainMap code) s = .next { s with result := .gainMap (gainOf code) } := rfl

theorem exec_rsvd (s : State) (c : Byte) : exec (.rsvd c) s = .next { s with result := .rsvd (rsvdFlag c) } := rfl

/-- Settles O20: the mapper's member has the code as its value, and Unknown stands for the codes no member has. -/
theorem gainMapSendsUnmappedToUnknown : Obligations.GainMapSendsUnmappedToUnknown := by
  intro s code
  refine ⟨gainOf code, exec_gainMap s code, gainValue_gainOf, ?_⟩
  rw [gainOf_eq_unknown_iff]
  simp

/-- Settles O21: the flag and the gain are functions of one ordinal, and only ordinal 3 is Unknown. -/
theorem rsvdReportsUnknownGain : Obligations.RsvdReportsUnknownGain := by
  intro s c
  exact ⟨_, _, _, exec_rsvd s c, exec_gain s c, rsvdFlag_eq c, rsvdFlag_eq_true_iff c⟩

/-- Settles O22: DECODE's record holds the field decoders' own values. -/
theorem decodeComposesTheFieldDecoders : Obligations.DecodeComposesTheFieldDecoders := by
  intro s high low c
  exact ⟨_, _, _, _, _, _, _, _, exec_decode s high low c, toRat_scaleOf high low, exec_scale s high low, exec_drdy s c,
    exec_mode s c, exec_rate s c, exec_gain s c, exec_rsvd s c⟩

end Sys2Proof.Machine
end

section
/-! PROOF. A configuration byte put together from its fields (spec/30_encoding.md R62). The masks of the case rows
select one field, and the mask 0x9F all fields but the two unused bits. -/

namespace Sys2Proof.Machine

/-- The byte `r uu m dd gg` of the format F-CONFIG (R62). -/
def configByte (r : BitVec 1) (u : BitVec 2) (m : BitVec 1) (d g : BitVec 2) : Byte := r ++ u ++ m ++ d ++ g

/-- Every byte is put together from its own slices. -/
theorem configByte_slices (c : Byte) :
    configByte (c.extractLsb' 7 1) (c.extractLsb' 5 2) (c.extractLsb' 4 1) (c.extractLsb' 2 2) (c.extractLsb' 0 2) =
      c := by
  simp only [configByte]
  rw [BitVec.extractLsb'_append_extractLsb'_eq_extractLsb' (show 7 = 5 + 2 from rfl),
    BitVec.extractLsb'_append_extractLsb'_eq_extractLsb' (show 5 = 4 + 1 from rfl),
    BitVec.extractLsb'_append_extractLsb'_eq_extractLsb' (show 4 = 2 + 2 from rfl),
    BitVec.extractLsb'_append_extractLsb'_eq_extractLsb' (show 2 = 0 + 2 from rfl)]
  exact BitVec.extractLsb'_eq_self

section
variable (r : BitVec 1) (u : BitVec 2) (m : BitVec 1) (d g : BitVec 2)

@[simp] theorem extractLsb'_gain_configByte : (configByte r u m d g).extractLsb' 0 2 = g :=
  BitVec.extractLsb'_append_eq_right

@[simp] theorem extractLsb'_rate_configByte : (configByte r u m d g).extractLsb' 2 2 = d :=
  (BitVec.extractLsb'_append_eq_of_le (by decide)).trans BitVec.extractLsb'_append_eq_right

@[simp] theorem extractLsb'_mode_configByte : (configByte r u m d g).extractLsb' 4 1 = m := by
  rw [configByte, BitVec.extractLsb'_append_eq_of_le (by decide), BitVec.extractLsb'_append_eq_of_le (by decide)]
  exact BitVec.extractLsb'_append_eq_right

@[simp] theorem extractLsb'_ready_configByte : (configByte r u m d g).extractLsb' 7 1 = r := by
  rw [configByte, BitVec.extractLsb'_append_eq_of_le (by decide), BitVec.extractLsb'_append_eq_of_le (by decide),
    BitVec.extractLsb'_append_eq_of_le (by decide)]
  exact BitVec.extractLsb'_append_eq_left

/-- The mask 0x9F clears the two unused bits and keeps every field. -/
theorem configByte_and_0x9F : configByte r u m d g &&& 0x9F#8 = configByte r 0#2 m d g := by
  change r ++ u ++ m ++ d ++ g &&&
      BitVec.allOnes 1 ++ 0#2 ++ BitVec.allOnes 1 ++ BitVec.allOnes 2 ++ BitVec.allOnes 2 = r ++ 0#2 ++ m ++ d ++ g
  simp only [BitVec.and_append, BitVec.and_allOnes, BitVec.and_zero]

end

/-- Two bytes agree under the mask 0x9F exactly when their fields agree. -/
theorem and_0x9F_eq_iff (c c' : Byte) : c &&& 0x9F#8 = c' &&& 0x9F#8 ↔
    c.extractLsb' 7 1 = c'.extractLsb' 7 1 ∧ c.extractLsb' 4 1 = c'.extractLsb' 4 1 ∧
      c.extractLsb' 2 2 = c'.extractLsb' 2 2 ∧ c.extractLsb' 0 2 = c'.extractLsb' 0 2 := by
  rw [← configByte_slices c, ← configByte_slices c', configByte_and_0x9F, configByte_and_0x9F]
  simp only [extractLsb'_gain_configByte, extractLsb'_rate_configByte, extractLsb'_mode_configByte,
    extractLsb'_ready_configByte]
  constructor
  · intro h
    have hr := congrArg (BitVec.extractLsb' 7 1) h
    have hm := congrArg (BitVec.extractLsb' 4 1) h
    have hd := congrArg (BitVec.extractLsb' 2 2) h
    have hg := congrArg (BitVec.extractLsb' 0 2) h
    simp only [extractLsb'_gain_configByte, extractLsb'_rate_configByte, extractLsb'_mode_configByte,
      extractLsb'_ready_configByte] at hr hm hd hg
    exact ⟨hr, hm, hd, hg⟩
  · rintro ⟨hr, hm, hd, hg⟩
    rw [hr, hm, hd, hg]

end Sys2Proof.Machine
end

section
/-! PROOF. DECODE and the slices of the configuration byte (spec/42_config_decoder.md section 3): the record
determines the four fields' slices and the two data bytes, and is determined by them. -/

namespace Sys2Proof.Machine

/-- A bit is what its one-bit slice holds. -/
theorem getLsbD_of_slice {c : Byte} {k : Nat} {x : BitVec 1} (h : c.extractLsb' k 1 = x) :
    c.getLsbD k = x.getLsbD 0 := by
  subst h
  simp

/-- The Configuration of a byte whose fields are known. -/
theorem configOf_of_slices {c : Byte} {r m : BitVec 1} {d g : BitVec 2} (hr : c.extractLsb' 7 1 = r)
    (hm : c.extractLsb' 4 1 = m) (hd : c.extractLsb' 2 2 = d) (hg : c.extractLsb' 0 2 = g) :
    configOf c = ⟨!r.getLsbD 0, modeOf (m.getLsbD 0), rateOf d.toNat, gainOf g.toNat⟩ := by
  rw [configOf, dataReadyFlag_eq, getLsbD_of_slice hr, modeBit_eq, getLsbD_of_slice hm, rateOrdinal_eq_toNat, hd,
    gainOrdinal_eq_toNat, hg]

theorem rateOf_inj {m n : Nat} (hm : m < 4) (hn : n < 4) (h : rateOf m = rateOf n) : m = n := by
  have hord := congrArg rateOrd h
  rwa [rateOrd_rateOf hm, rateOrd_rateOf hn] at hord

theorem gainOf_inj {m n : Nat} (hm : m < 4) (hn : n < 4) (h : gainOf m = gainOf n) : m = n := by
  have hcode := congrArg gainCode h
  rw [gainCode_gainOf hm, gainCode_gainOf hn] at hcode
  split at hcode <;> split at hcode <;> omega

/-- A byte's Configuration determines every bit of it but the two unused ones. -/
theorem configOf_eq_iff (c c' : Byte) : configOf c = configOf c' ↔ c &&& 0x9F#8 = c' &&& 0x9F#8 := by
  rw [and_0x9F_eq_iff]
  constructor
  · intro h
    simp only [configOf, Configuration.mk.injEq] at h
    obtain ⟨hready, hmode, hrate, hgain⟩ := h
    refine ⟨?_, ?_, ?_, ?_⟩
    · rw [dataReadyFlag_eq, dataReadyFlag_eq, Bool.not_inj_iff] at hready
      rw [← ofBool_getLsbD, ← ofBool_getLsbD, hready]
    · have hport := congrArg (fun m => BitVec.ofNat 1 (modePort m)) hmode
      simp only [ofNat_modePort_modeOf, modeBit_eq, ofBool_getLsbD] at hport
      exact hport
    · have hord := rateOf_inj (rateOrdinal_lt c) (rateOrdinal_lt c') hrate
      rwa [rateOrdinal_eq_toNat, rateOrdinal_eq_toNat, BitVec.toNat_inj] at hord
    · have hord := gainOf_inj (gainOrdinal_lt c) (gainOrdinal_lt c') hgain
      rwa [gainOrdinal_eq_toNat, gainOrdinal_eq_toNat, BitVec.toNat_inj] at hord
  · rintro ⟨hr, hm, hd, hg⟩
    rw [configOf_of_slices hr hm hd hg, configOf_of_slices rfl rfl rfl rfl]

/-- The Reading determines the two data bytes. -/
theorem scaleOf_inj {high low high' low' : Byte} (h : scaleOf high low = scaleOf high' low') :
    high = high' ∧ low = low' := by
  have hsum := congrArg Reading.sixteenths h
  rw [sixteenths_scaleOf, sixteenths_scaleOf] at hsum
  have hlow := low.isLt
  have hlow' := low'.isLt
  exact ⟨BitVec.eq_of_toNat_eq (by omega), BitVec.eq_of_toNat_eq (by omega)⟩

/-- The flag of a byte is a function of its Configuration (R125). -/
theorem rsvdFlag_eq_decide (c : Byte) : rsvdFlag c = decide ((configOf c).gainAmp = .unknown) := by
  rw [Bool.eq_iff_iff, rsvdFlag_eq_true_iff, decide_eq_true_eq]
  rfl

theorem decodeFrame_eq_iff (high low c high' low' c' : Byte) :
    decodeFrame high low c = decodeFrame high' low' c' ↔ high = high' ∧ low = low' ∧ c &&& 0x9F#8 = c' &&& 0x9F#8 := by
  constructor
  · intro h
    obtain ⟨hhigh, hlow⟩ := scaleOf_inj (congrArg Decoded.reading h)
    exact ⟨hhigh, hlow, (configOf_eq_iff c c').1 (congrArg Decoded.cfg h)⟩
  · rintro ⟨rfl, rfl, hc⟩
    have hcfg := (configOf_eq_iff c c').2 hc
    rw [decodeFrame, decodeFrame, rsvdFlag_eq_decide, rsvdFlag_eq_decide, hcfg]

/-- Settles O24: the record determines the frame up to the two unused bits, and nothing of it depends on them. -/
theorem decodeForgetsOnlyUnusedBits : Obligations.DecodeForgetsOnlyUnusedBits := by
  intro s high low c high' low' c'
  exact ⟨_, _, exec_decode s high low c, exec_decode s high' low' c', decodeFrame_eq_iff high low c high' low' c'⟩

end Sys2Proof.Machine
end

section
/-! PROOF. The output ports of the decoders (spec/30_encoding.md F-CFGOUT and F-READING, R70, R71): each port's code
is the slice of the byte it was decoded from, but for the reserved gain, which is 7. -/

namespace Sys2Proof.Machine

theorem bitPort_dataReadyFlag (c : Byte) : bitPort (dataReadyFlag c) = BitVec.ofBool (!c.getLsbD 7) := by
  rw [dataReadyFlag_eq, bitPort]

theorem modePort_modeOf_modeBit (c : Byte) : BitVec.ofNat 1 (modePort (modeOf (modeBit c))) = c.extractLsb' 4 1 := by
  rw [ofNat_modePort_modeOf, modeBit_eq, ofBool_getLsbD]

theorem rateOrd_rateOf_rateOrdinal (c : Byte) :
    BitVec.ofNat 2 (rateOrd (rateOf (rateOrdinal c))) = c.extractLsb' 2 2 := by
  rw [rateOrd_rateOf (rateOrdinal_lt c), rateOrdinal_eq_toNat, BitVec.ofNat_toNat, BitVec.setWidth_eq]

/-- The gain port of a two-bit gain field: 7 stands for the reserved code (D9). -/
def gainPortOf (g : BitVec 2) : BitVec 3 := if g = 3#2 then 7#3 else 0#1 ++ g

theorem gainCode_gainOf_gainOrdinal (c : Byte) :
    BitVec.ofNat 3 (gainCode (gainOf (gainOrdinal c))) = gainPortOf (c.extractLsb' 0 2) := by
  have hreserved : c.extractLsb' 0 2 = 3#2 ↔ gainOrdinal c = 3 := by
    rw [gainOrdinal_eq_toNat, ← BitVec.toNat_inj]
    rfl
  rw [gainCode_gainOf (gainOrdinal_lt c), gainPortOf]
  by_cases h : gainOrdinal c = 3
  · rw [if_pos h, if_pos (hreserved.2 h)]
  · have hlt := gainOrdinal_lt c
    rw [if_neg h, if_neg (mt hreserved.1 h)]
    apply BitVec.eq_of_toNat_eq
    rw [BitVec.toNat_ofNat, Nat.mod_eq_of_lt (by omega), BitVec.toNat_append, gainOrdinal_eq_toNat]
    simp

theorem bitPort_rsvdFlag (c : Byte) : bitPort (rsvdFlag c) = BitVec.ofBool (c.getLsbD 1 && c.getLsbD 0) := by
  rw [rsvdFlag_eq, bitPort]

/-- The data ports as a decoded record drives them, and no others. -/
def Decoded.ports (d : Decoded) : Ports where
  readingQ  := some (readingQ d.reading)
  dataReady := some (bitPort d.cfg.dataReady)
  mode      := some (BitVec.ofNat 1 (modePort d.cfg.mode))
  rateOrd   := some (BitVec.ofNat 2 (rateOrd d.cfg.dataRate))
  gainCode  := some (BitVec.ofNat 3 (gainCode d.cfg.gainAmp))
  rsvd      := some (bitPort d.rsvd)
  readOk    := none
  encByte   := none
  encOk     := none
  extValue  := none
  bufOut    := none

theorem ports_decoded (d : Decoded) : (Result.decoded d).ports = d.ports := rfl

/-- What the data ports carry of a frame, in the frame's own bits. -/
theorem ports_decodeFrame (high low c : Byte) : (decodeFrame high low c).ports =
    { readingQ := some (high ++ low), dataReady := some (BitVec.ofBool (!c.getLsbD 7)),
      mode := some (c.extractLsb' 4 1), rateOrd := some (c.extractLsb' 2 2),
      gainCode := some (gainPortOf (c.extractLsb' 0 2)), rsvd := some (BitVec.ofBool (c.getLsbD 1 && c.getLsbD 0)),
      readOk := none, encByte := none, encOk := none, extValue := none, bufOut := none } := by
  simp only [Decoded.ports, decodeFrame, configOf, readingQ_scaleOf, bitPort_dataReadyFlag, modePort_modeOf_modeBit,
    rateOrd_rateOf_rateOrdinal, gainCode_gainOf_gainOrdinal, bitPort_rsvdFlag]

/-- Settles O26: DECODE drives the data ports with the record of its frame. -/
theorem decodeDrivesThePorts : Obligations.DecodeDrivesThePorts := by
  intro s high low c
  exact ⟨_, exec_decode s high low c, (ports_decoded _).trans (ports_decodeFrame high low c)⟩

/-- GAINMAP's port carries the code a member has as its value, and 7 for every other (D17). -/
theorem gainCode_gainOf_of_any_code (code : Nat) :
    BitVec.ofNat 3 (gainCode (gainOf code)) = if code ∈ [0, 1, 2, 4] then BitVec.ofNat 3 code else 7#3 := by
  by_cases h : code ∈ [0, 1, 2, 4]
  · rw [if_pos h]
    fin_cases h <;> rfl
  · rw [if_neg h, (gainOf_eq_unknown_iff code).2 h, gainCode]

/-- A result of one field drives its port and leaves the others as they are with no result at all. -/
theorem ports_reading (r : Reading) :
    (Result.reading r).ports = { Result.idle.ports with readingQ := some (readingQ r) } := rfl

theorem ports_dataReady (b : Bool) :
    (Result.dataReady b).ports = { Result.idle.ports with dataReady := some (bitPort b) } := rfl

theorem ports_mode (m : Mode) :
    (Result.mode m).ports = { Result.idle.ports with mode := some (BitVec.ofNat 1 (modePort m)) } := rfl

theorem ports_rate (ord : Nat) (d : DataRate) :
    (Result.rate ord d).ports = { Result.idle.ports with rateOrd := some (BitVec.ofNat 2 (rateOrd d)) } := rfl

theorem ports_gain (ord : Nat) (g : GainAmp) :
    (Result.gain ord g).ports = { Result.idle.ports with gainCode := some (BitVec.ofNat 3 (gainCode g)) } := rfl

theorem ports_gainMap (g : GainAmp) :
    (Result.gainMap g).ports = { Result.idle.ports with gainCode := some (BitVec.ofNat 3 (gainCode g)) } := rfl

theorem ports_rsvd (b : Bit) : (Result.rsvd b).ports = { Result.idle.ports with rsvd := some (bitPort b) } := rfl

/-- Settles O50: each decoder returns one field, whose port code is its slice of the byte. -/
theorem fieldDecodersDriveTheirPort : Obligations.FieldDecodersDriveTheirPort := by
  intro s high low c code
  refine ⟨_, _, _, _, _, _, _, ⟨exec_scale s high low, ?_⟩, ⟨exec_drdy s c, ?_⟩, ⟨exec_mode s c, ?_⟩,
    ⟨exec_rate s c, ?_⟩, ⟨exec_gain s c, ?_⟩, ⟨exec_gainMap s code, ?_⟩, ⟨exec_rsvd s c, ?_⟩, rfl⟩
  · rw [ports_reading, readingQ_scaleOf]
  · rw [ports_dataReady, bitPort_dataReadyFlag]
  · rw [ports_mode, modePort_modeOf_modeBit]
  · rw [ports_rate, rateOrd_rateOf_rateOrdinal]
  · rw [ports_gain, gainCode_gainOf_gainOrdinal, gainPortOf]
  · rw [ports_gainMap, gainCode_gainOf_of_any_code]
  · rw [ports_rsvd, bitPort_rsvdFlag]

/-- Settles O49: the value EXTRACT returns fits ext_value, and PACK drives buf_out with the buffer it returns. -/
theorem codecDrivesThePorts : Obligations.CodecDrivesThePorts := by
  intro s value b off len h1 h2 hN
  constructor
  · obtain ⟨v, hexec, hsum, hlt⟩ := extractReadsMostSignificantFirst s b off len h1 h2 hN
    have hfits : v < 2 ^ 32 := hlt.trans_le (Nat.pow_le_pow_right (by decide) h2)
    refine ⟨_, BitVec.ofNat 32 v, hexec, ?_, rfl⟩
    rw [BitVec.toNat_ofNat, Nat.mod_eq_of_lt hfits, hsum]
  · obtain ⟨out, bufs', hexec, hlength, hinside, houtside, -, -⟩ :=
      packWritesLowBitsInPlace s value b off len h1 h2 hN
    exact ⟨_, bufs', out, hexec, hlength, hinside, houtside, rfl⟩

end Sys2Proof.Machine
end

section
/-! PROOF. ENCODE (spec/43_config_encoder.md R140): the four PACKs write disjoint fields of one buffer, so the laws of
the codec give each field of the byte; the byte's Configuration is then the one that was encoded. -/

namespace Sys2Proof.Machine

/-- A slice of the byte a buffer of 8 cells holds is the field of those cells. -/
theorem toNat_slice_ofNat_extractBits (buf : Cells) {k n : Nat} (h : k + n ≤ 8) :
    ((BitVec.ofNat 8 (extractBits buf 0 8)).extractLsb' k n).toNat = extractBits buf (8 - k - n) n := by
  have hsplit : extractBits buf 0 8 =
      (extractBits buf 0 (8 - k - n) * 2 ^ n + extractBits buf (8 - k - n) n) * 2 ^ k + extractBits buf (8 - k) k := by
    have houter := extractBits_add buf 0 (8 - k) k
    have hinner := extractBits_add buf 0 (8 - k - n) n
    rw [Nat.zero_add, Nat.sub_add_cancel (by omega)] at houter hinner
    rw [houter, hinner]
  have hbyte : extractBits buf 0 8 % 2 ^ 8 = extractBits buf 0 8 := Nat.mod_eq_of_lt (extractBits_lt buf 0 8)
  rw [BitVec.extractLsb'_toNat, BitVec.toNat_ofNat, hbyte, Nat.shiftRight_eq_div_pow, hsplit,
    Nat.mul_comm _ (2 ^ k), Nat.mul_add_div (Nat.two_pow_pos k), Nat.div_eq_of_lt (extractBits_lt _ _ _), Nat.add_zero,
    Nat.mul_add_mod', Nat.mod_eq_of_lt (extractBits_lt _ _ _)]

/-- The buffer ENCODE builds by its four PACKs. -/
def encodeCells (cfg : Configuration) (gain : Nat) : Cells :=
  packBits gain (packBits (rateOrd cfg.dataRate) (packBits (modePort cfg.mode)
    (packBits (if cfg.dataReady then 0 else 1) zeros8 0 1) 3 1) 4 2) 6 2

theorem encodeImage_eq (cfg : Configuration) (gain : Nat) :
    encodeImage cfg gain = extractBits (encodeCells cfg gain) 0 8 := rfl

@[simp] theorem length_zeros8 : zeros8.length = 8 := rfl

section
variable (cfg : Configuration) (gain : Nat)

theorem extractBits_encodeCells_ready :
    extractBits (encodeCells cfg gain) 0 1 = (if cfg.dataReady then 0 else 1) % 2 ^ 1 := by
  rw [encodeCells, extractBits_packBits_disjoint _ _ (by omega), extractBits_packBits_disjoint _ _ (by omega),
    extractBits_packBits_disjoint _ _ (by omega), extractBits_packBits_same _ _ (by simp)]

theorem extractBits_encodeCells_unused : extractBits (encodeCells cfg gain) 1 2 = 0 := by
  rw [encodeCells, extractBits_packBits_disjoint _ _ (by omega), extractBits_packBits_disjoint _ _ (by omega),
    extractBits_packBits_disjoint _ _ (by omega), extractBits_packBits_disjoint _ _ (by omega)]
  rfl

theorem extractBits_encodeCells_mode : extractBits (encodeCells cfg gain) 3 1 = modePort cfg.mode % 2 ^ 1 := by
  rw [encodeCells, extractBits_packBits_disjoint _ _ (by omega), extractBits_packBits_disjoint _ _ (by omega),
    extractBits_packBits_same _ _ (by simp)]

theorem extractBits_encodeCells_rate : extractBits (encodeCells cfg gain) 4 2 = rateOrd cfg.dataRate % 2 ^ 2 := by
  rw [encodeCells, extractBits_packBits_disjoint _ _ (by omega), extractBits_packBits_same _ _ (by simp)]

theorem extractBits_encodeCells_gain : extractBits (encodeCells cfg gain) 6 2 = gain % 2 ^ 2 := by
  rw [encodeCells, extractBits_packBits_same _ _ (by simp)]

end

/-- The byte `r00mddgg` of a Configuration and its two gain bits (R140). -/
def encodedByte (cfg : Configuration) (g : BitVec 2) : Byte :=
  configByte (BitVec.ofBool !cfg.dataReady) 0#2 (BitVec.ofNat 1 (modePort cfg.mode))
    (BitVec.ofNat 2 (rateOrd cfg.dataRate)) g

/-- Each slice of the byte ENCODE extracts is the field one PACK wrote, or untouched. -/
theorem ofNat_encodeImage (cfg : Configuration) (g : BitVec 2) :
    BitVec.ofNat 8 (encodeImage cfg g.toNat) = encodedByte cfg g := by
  rw [← configByte_slices (BitVec.ofNat 8 (encodeImage cfg g.toNat)), encodeImage_eq, encodedByte]
  congr 1
  · apply BitVec.eq_of_toNat_eq
    rw [toNat_slice_ofNat_extractBits _ (by decide), extractBits_encodeCells_ready]
    cases cfg.dataReady <;> rfl
  · apply BitVec.eq_of_toNat_eq
    exact (toNat_slice_ofNat_extractBits _ (by decide)).trans (extractBits_encodeCells_unused cfg g.toNat)
  · apply BitVec.eq_of_toNat_eq
    exact (toNat_slice_ofNat_extractBits _ (by decide)).trans (extractBits_encodeCells_mode cfg g.toNat)
  · apply BitVec.eq_of_toNat_eq
    exact (toNat_slice_ofNat_extractBits _ (by decide)).trans (extractBits_encodeCells_rate cfg g.toNat)
  · apply BitVec.eq_of_toNat_eq
    rw [toNat_slice_ofNat_extractBits _ (by decide), extractBits_encodeCells_gain, Nat.mod_eq_of_lt g.isLt]

/-- X1, X2 and X4 have their value in two bits, from which the decoder gets them back; the others are refused (R141). -/
theorem gainBits_cases (g : GainAmp) :
    (∃ bits : BitVec 2, gainValue g = some bits.toNat ∧ gainOf bits.toNat = g ∧ g ≠ .x8 ∧ g ≠ .unknown) ∨
    g = .x8 ∨ g = .unknown := by
  cases g with
  | x1 => exact .inl ⟨0#2, by decide⟩
  | x2 => exact .inl ⟨1#2, by decide⟩
  | x4 => exact .inl ⟨2#2, by decide⟩
  | x8 => exact .inr (.inl rfl)
  | unknown => exact .inr (.inr rfl)

/-- With the switch off the encodable gains are those but X8 and Unknown. -/
theorem encOkFlag_eq (cfg : Configuration) :
    encOkFlag Config.encTruncatesX8 cfg = decide (cfg.gainAmp ≠ .x8 ∧ cfg.gainAmp ≠ .unknown) := by
  unfold encOkFlag
  cases cfg.gainAmp <;> rfl

theorem encodeConfig_of_gainBits {cfg : Configuration} {g : BitVec 2} (hg : gainValue cfg.gainAmp = some g.toNat)
    (hx8 : cfg.gainAmp ≠ .x8) (hunknown : cfg.gainAmp ≠ .unknown) :
    encodeConfig Config.encTruncatesX8 cfg = some (encodedByte cfg g) := by
  rw [encodeConfig, if_pos (by rw [encOkFlag_eq]; exact decide_eq_true ⟨hx8, hunknown⟩), hg, Option.map_some,
    ofNat_encodeImage]

theorem encodeConfig_of_refused {cfg : Configuration} (h : cfg.gainAmp = .x8 ∨ cfg.gainAmp = .unknown) :
    encodeConfig Config.encTruncatesX8 cfg = none := by
  have hrefused : ¬(cfg.gainAmp ≠ .x8 ∧ cfg.gainAmp ≠ .unknown) := fun ⟨hx8, hunknown⟩ => h.elim hx8 hunknown
  rw [encodeConfig, if_neg (by rwa [encOkFlag_eq, decide_eq_true_eq])]

/-- Everything ENCODE can answer: the byte of the Configuration's fields, or None for X8 and Unknown. -/
theorem encodeConfig_cases (cfg : Configuration) :
    (∃ g : BitVec 2, gainOf g.toNat = cfg.gainAmp ∧ cfg.gainAmp ≠ .x8 ∧ cfg.gainAmp ≠ .unknown ∧
      encodeConfig Config.encTruncatesX8 cfg = some (encodedByte cfg g)) ∨
    ((cfg.gainAmp = .x8 ∨ cfg.gainAmp = .unknown) ∧ encodeConfig Config.encTruncatesX8 cfg = none) := by
  obtain ⟨g, hvalue, hg, hx8, hunknown⟩ | hrefused := gainBits_cases cfg.gainAmp
  · exact .inl ⟨g, hg, hx8, hunknown, encodeConfig_of_gainBits hvalue hx8 hunknown⟩
  · exact .inr ⟨hrefused, encodeConfig_of_refused hrefused⟩

theorem exec_encode (s : State) (cfg : Configuration) :
    exec (.encode cfg) s = .next { s with result := .encoded (encodeConfig Config.encTruncatesX8 cfg) } := rfl

theorem ofNat_modePort (m : Mode) : BitVec.ofNat 1 (modePort m) = BitVec.ofBool (decide (m = .single)) := by
  cases m <;> rfl

/-- Settles O31: an encodable gain puts its value below the other fields, and X8 and Unknown give None. -/
theorem encodePlacesTheFields : Obligations.EncodePlacesTheFields := by
  intro s ready m d
  refine ⟨fun g v hgain => ?_, ?_, ?_⟩
  · have hbits : gainValue g = some v.toNat ∧ g ≠ .x8 ∧ g ≠ .unknown := by
      obtain ⟨rfl, rfl⟩ | ⟨rfl, rfl⟩ | ⟨rfl, rfl⟩ := hgain <;> decide
    obtain ⟨hvalue, hx8, hunknown⟩ := hbits
    rw [exec_encode, encodeConfig_of_gainBits hvalue hx8 hunknown, encodedByte, configByte, ofNat_modePort]
    cases d <;> rfl
  · rw [exec_encode, encodeConfig_of_refused (.inl rfl)]
  · rw [exec_encode, encodeConfig_of_refused (.inr rfl)]

theorem modeOf_ofNat_modePort (m : Mode) : modeOf ((BitVec.ofNat 1 (modePort m)).getLsbD 0) = m := by
  cases m <;> rfl

theorem rateOf_ofNat_rateOrd (d : DataRate) : rateOf (BitVec.ofNat 2 (rateOrd d)).toNat = d := by
  cases d <;> rfl

/-- The byte ENCODE gives decodes to the Configuration it was made from (law E1). -/
theorem configOf_of_encodeConfig_eq_some {cfg : Configuration} {b : Byte}
    (h : encodeConfig Config.encTruncatesX8 cfg = some b) : configOf b = cfg := by
  obtain ⟨g, hg, -, -, he⟩ | ⟨-, he⟩ := encodeConfig_cases cfg
  · obtain rfl : encodedByte cfg g = b := Option.some.inj (he.symm.trans h)
    rw [encodedByte, configOf_of_slices (extractLsb'_ready_configByte _ _ _ _ _) (extractLsb'_mode_configByte _ _ _ _ _)
      (extractLsb'_rate_configByte _ _ _ _ _) (extractLsb'_gain_configByte _ _ _ _ _), hg, modeOf_ofNat_modePort,
      rateOf_ofNat_rateOrd]
    simp
  · cases he.symm.trans h

/-- Settles O32: the byte's Configuration is the encoded one, so no other Configuration has that byte, and its gain is
not Unknown, so the reserved flag is 0. -/
theorem encodeThenDecodeReturnsConfiguration : Obligations.EncodeThenDecodeReturnsConfiguration := by
  intro s cfg high low hx8 hunknown
  obtain ⟨g, -, -, -, he⟩ | ⟨hrefused, -⟩ := encodeConfig_cases cfg
  · have hback := configOf_of_encodeConfig_eq_some he
    refine ⟨encodedByte cfg g, _, by rw [exec_encode, he], exec_decode s high low _, hback, ?_, fun cfg' h' => ?_⟩
    · change rsvdFlag _ = false
      rw [rsvdFlag_eq_decide, hback, decide_eq_false hunknown]
    · have he' : encodeConfig Config.encTruncatesX8 cfg' = some (encodedByte cfg g) := by
        rw [exec_encode] at h'
        simpa using h'
      exact (configOf_of_encodeConfig_eq_some he').symm.trans hback
  · exact absurd hrefused (not_or.2 ⟨hx8, hunknown⟩)

/-- Bits 1 and 0 are both 1 exactly in the bytes whose gain is Unknown (R125). -/
theorem and_0x03_eq_iff (c : Byte) : c &&& 0x03#8 = 0x03#8 ↔ (configOf c).gainAmp = .unknown := by
  have hord : (c &&& 0x03#8).toNat = gainOrdinal c := by
    rw [gainOrdinal_eq_toNat, BitVec.extractLsb'_toNat]
    exact Nat.and_two_pow_sub_one_eq_mod c.toNat 2
  rw [← BitVec.toNat_inj, hord]
  exact (gainOf_eq_unknown_iff_of_lt (gainOrdinal_lt c)).symm

/-- The bits ENCODE gives are its fields' alone: the unused ones are 0 (D20). -/
theorem encodedByte_and_0x9F (cfg : Configuration) (g : BitVec 2) : encodedByte cfg g &&& 0x9F#8 = encodedByte cfg g :=
  configByte_and_0x9F _ _ _ _ _

/-- Settles O33: the byte ENCODE gives has the same Configuration as the byte decoded, so the same fields, and its
unused bits are 0. -/
theorem decodeThenEncodeClearsUnusedBits : Obligations.DecodeThenEncodeClearsUnusedBits := by
  intro s high low b
  refine ⟨_, exec_decode s high low b, fun hgain => ?_, fun hgain => ?_⟩
  · rw [ne_eq, and_0x03_eq_iff] at hgain
    obtain ⟨g, -, -, -, he⟩ | ⟨hx8 | hunknown, -⟩ := encodeConfig_cases (configOf b)
    · have hfields := (configOf_eq_iff _ b).1 (configOf_of_encodeConfig_eq_some he)
      rw [encodedByte_and_0x9F] at hfields
      exact (exec_encode s (configOf b)).trans (by rw [he, hfields])
    · exact absurd hx8 (gainOf_ne_x8 (gainOrdinal_lt b))
    · exact absurd hunknown hgain
  · have hunknown := (and_0x03_eq_iff b).1 hgain
    exact ⟨hunknown, (exec_encode s (configOf b)).trans (by rw [encodeConfig_of_refused (.inr hunknown)])⟩

end Sys2Proof.Machine
end

section
/-! PROOF. The transport boundary (spec/44_transport_read.md): INIT and READTXN return the answer of their one call, and
READ goes on from the state that same call leaves. -/

namespace Sys2Proof.Machine

theorem exec_init (s : State) : exec .init s = .next (s.callInit.2.returns (.initOk s.callInit.1)) := rfl

theorem exec_readTxn (s : State) : exec .readTxn s = .next (s.callTxn.2.returns (.txn s.callTxn.1)) := rfl

theorem exec_read (s : State) : exec .read s = .next (s.callTxn.2.returns (.read (readResult s.callTxn.1))) := rfl

/-- Settles O34: the call takes the listed answer, or draws a free one where none is listed. -/
theorem initReturnsTheAnswer : Obligations.InitReturnsTheAnswer := by
  intro s
  constructor
  · intro a rest hlist
    simp only [exec_init, State.callInit, hlist, State.returns]
  · intro hlist
    simp only [exec_init, State.callInit, hlist, State.returns]

/-- Settles O35: the same two branches of READTXN's call, which sends the count of a frame. -/
theorem readTxnReturnsTheAnswer : Obligations.ReadTxnReturnsTheAnswer := by
  intro s
  constructor
  · intro a rest hlist
    simp only [exec_readTxn, State.callTxn, hlist, State.returns, Config.frameBytes]
  · intro hlist
    simp only [exec_readTxn, State.callTxn, hlist, State.returns, Config.frameBytes]

theorem readOkFlag_iff (a : TxnAnswer) : readOkFlag a = true ↔ a.success = true ∧ a.bytes.length = 3 := by
  rw [readOkFlag, Bool.and_eq_true, beq_iff_eq]
  rfl

theorem readResult_of_failure {a : TxnAnswer} (h : ¬(a.success = true ∧ a.bytes.length = 3)) : readResult a = none :=
  if_neg (mt (readOkFlag_iff a).1 h)

theorem readResult_of_frame (high low config : Byte) :
    readResult ⟨[high, low, config], true⟩ = some (decodeFrame high low config) := rfl

/-- Everything READ can make of an answer: the record of a frame, or no data (D32). -/
theorem readResult_cases (a : TxnAnswer) :
    (∃ high low config, a = ⟨[high, low, config], true⟩ ∧ readResult a = some (decodeFrame high low config)) ∨
    (¬(a.success = true ∧ a.bytes.length = 3) ∧ readResult a = none) := by
  by_cases h : a.success = true ∧ a.bytes.length = 3
  · obtain ⟨bytes, success⟩ := a
    obtain ⟨rfl, hlen⟩ : success = true ∧ bytes.length = 3 := h
    obtain ⟨high, low, config, rfl⟩ := List.length_eq_three.1 hlen
    exact .inl ⟨high, low, config, rfl, rfl⟩
  · exact .inr ⟨h, readResult_of_failure h⟩

/-- Settles O36: READTXN and READ make the same call, and what READ returns is a function of its answer. -/
theorem readIsOneReadTxnThenDecode : Obligations.ReadIsOneReadTxnThenDecode := by
  intro s
  refine ⟨_, s.callTxn.1, exec_readTxn s, rfl, State.callTxn_calls s, fun high low config ha => ?_, fun ha => ?_⟩
  · refine ⟨_, exec_decode _ high low config, ?_⟩
    rw [exec_read, ha, readResult_of_frame]
    rfl
  · rw [exec_read, readResult_of_failure ha]
    rfl

/-- Settles O37: a read that succeeds returns a whole record, whose flag reports its own gain; one that fails returns
nothing any accessor could read. -/
theorem failedReadYieldsNoData : Obligations.FailedReadYieldsNoData := by
  intro s
  refine ⟨_, exec_read s, ?_⟩
  rw [State.returns_result]
  obtain ⟨high, low, config, -, hread⟩ | ⟨-, hread⟩ := readResult_cases s.callTxn.1
  · rw [hread]
    exact .inl ⟨_, rfl, rfl, rfl, rfl, rfl, rfl, rfl, rfl, rsvdFlag_eq_true_iff config⟩
  · rw [hread]
    exact .inr ⟨rfl, rfl, rfl, rfl, rfl, rfl, rfl, rfl⟩

/-- A read that succeeds drives what DECODE drives, and read_ok. -/
theorem ports_read_some (d : Decoded) : (Result.read (some d)).ports = { d.ports with readOk := some 1#1 } := rfl

theorem ports_read_none : (Result.read none).ports = { Result.idle.ports with readOk := some 0#1 } := rfl

/-- Settles O52: READ's record drives the data ports as DECODE's does, and a failed read has no record. -/
theorem readDrivesThePorts : Obligations.ReadDrivesThePorts := by
  intro s
  refine ⟨_, s.callTxn.1, _, exec_readTxn s, rfl, exec_read s, fun high low config ha => ?_, fun ha => ?_⟩
  · rw [ha, readResult_of_frame, ports_read_some, ports_decodeFrame]
    rfl
  · rw [readResult_of_failure ha, ports_read_none]
    rfl

end Sys2Proof.Machine
end

section
/-! PROOF. The case rows (spec/30_encoding.md R73): a row's mask keeps one field of the byte, so its match fixes that
field and the operand is the bits beside it. -/

namespace Sys2Proof

open Machine

/-! A byte put together around one field: its slices, what the field's mask keeps, and the byte back from its slices. -/

theorem readyByte_low (r : BitVec 1) (low : BitVec 7) : (readyByte r low).extractLsb' 0 7 = low :=
  BitVec.extractLsb'_append_eq_right

theorem readyByte_field (r : BitVec 1) (low : BitVec 7) : (readyByte r low).extractLsb' 7 1 = r :=
  BitVec.extractLsb'_append_eq_left

theorem readyByte_and (r : BitVec 1) (low : BitVec 7) : readyByte r low &&& 0x80#8 = readyByte r 0 := by
  change r ++ low &&& BitVec.allOnes 1 ++ 0#7 = r ++ 0#7
  rw [BitVec.and_append, BitVec.and_allOnes, BitVec.and_zero]

theorem readyByte_slices (c : Byte) : readyByte (c.extractLsb' 7 1) (c.extractLsb' 0 7) = c := by
  rw [readyByte, BitVec.extractLsb'_append_extractLsb'_eq_extractLsb' (show 7 = 0 + 7 from rfl)]
  exact BitVec.extractLsb'_eq_self

theorem modeByte_low (high : BitVec 3) (m : BitVec 1) (low : BitVec 4) : (modeByte high m low).extractLsb' 0 4 = low :=
  BitVec.extractLsb'_append_eq_right

theorem modeByte_field (high : BitVec 3) (m : BitVec 1) (low : BitVec 4) : (modeByte high m low).extractLsb' 4 1 = m :=
  (BitVec.extractLsb'_append_eq_of_le (by decide)).trans BitVec.extractLsb'_append_eq_right

theorem modeByte_high (high : BitVec 3) (m : BitVec 1) (low : BitVec 4) :
    (modeByte high m low).extractLsb' 5 3 = high :=
  (BitVec.extractLsb'_append_eq_of_le (by decide)).trans BitVec.extractLsb'_append_eq_left

theorem modeByte_and (high : BitVec 3) (m : BitVec 1) (low : BitVec 4) :
    modeByte high m low &&& 0x10#8 = modeByte 0 m 0 := by
  change high ++ m ++ low &&& 0#3 ++ BitVec.allOnes 1 ++ 0#4 = 0#3 ++ m ++ 0#4
  rw [BitVec.and_append, BitVec.and_append, BitVec.and_allOnes, BitVec.and_zero, BitVec.and_zero]

theorem modeByte_slices (c : Byte) : modeByte (c.extractLsb' 5 3) (c.extractLsb' 4 1) (c.extractLsb' 0 4) = c := by
  rw [modeByte, BitVec.extractLsb'_append_extractLsb'_eq_extractLsb' (show 5 = 4 + 1 from rfl),
    BitVec.extractLsb'_append_extractLsb'_eq_extractLsb' (show 4 = 0 + 4 from rfl)]
  exact BitVec.extractLsb'_eq_self

theorem rateByte_low (high : BitVec 4) (d low : BitVec 2) : (rateByte high d low).extractLsb' 0 2 = low :=
  BitVec.extractLsb'_append_eq_right

theorem rateByte_field (high : BitVec 4) (d low : BitVec 2) : (rateByte high d low).extractLsb' 2 2 = d :=
  (BitVec.extractLsb'_append_eq_of_le (by decide)).trans BitVec.extractLsb'_append_eq_right

theorem rateByte_high (high : BitVec 4) (d low : BitVec 2) : (rateByte high d low).extractLsb' 4 4 = high :=
  (BitVec.extractLsb'_append_eq_of_le (by decide)).trans BitVec.extractLsb'_append_eq_left

theorem rateByte_and (high : BitVec 4) (d low : BitVec 2) : rateByte high d low &&& 0x0C#8 = rateByte 0 d 0 := by
  change high ++ d ++ low &&& 0#4 ++ BitVec.allOnes 2 ++ 0#2 = 0#4 ++ d ++ 0#2
  rw [BitVec.and_append, BitVec.and_append, BitVec.and_allOnes, BitVec.and_zero, BitVec.and_zero]

theorem rateByte_slices (c : Byte) : rateByte (c.extractLsb' 4 4) (c.extractLsb' 2 2) (c.extractLsb' 0 2) = c := by
  rw [rateByte, BitVec.extractLsb'_append_extractLsb'_eq_extractLsb' (show 4 = 2 + 2 from rfl),
    BitVec.extractLsb'_append_extractLsb'_eq_extractLsb' (show 2 = 0 + 2 from rfl)]
  exact BitVec.extractLsb'_eq_self

theorem gainByte_field (high : BitVec 6) (g : BitVec 2) : (gainByte high g).extractLsb' 0 2 = g :=
  BitVec.extractLsb'_append_eq_right

theorem gainByte_high (high : BitVec 6) (g : BitVec 2) : (gainByte high g).extractLsb' 2 6 = high :=
  BitVec.extractLsb'_append_eq_left

theorem gainByte_and (high : BitVec 6) (g : BitVec 2) : gainByte high g &&& 0x03#8 = gainByte 0 g := by
  change high ++ g &&& 0#6 ++ BitVec.allOnes 2 = 0#6 ++ g
  rw [BitVec.and_append, BitVec.and_allOnes, BitVec.and_zero]

theorem gainByte_slices (c : Byte) : gainByte (c.extractLsb' 2 6) (c.extractLsb' 0 2) = c := by
  rw [gainByte, BitVec.extractLsb'_append_extractLsb'_eq_extractLsb' (show 2 = 0 + 2 from rfl)]
  exact BitVec.extractLsb'_eq_self

/-! What a mask keeps of a byte is its field alone, so a known result fixes the field, and the byte is put together
around it. -/

theorem and_readyMask (c : Byte) : c &&& 0x80#8 = readyByte (c.extractLsb' 7 1) 0 := by
  rw [← readyByte_slices c, readyByte_and, readyByte_field]

theorem and_modeMask (c : Byte) : c &&& 0x10#8 = modeByte 0 (c.extractLsb' 4 1) 0 := by
  rw [← modeByte_slices c, modeByte_and, modeByte_field]

theorem and_rateMask (c : Byte) : c &&& 0x0C#8 = rateByte 0 (c.extractLsb' 2 2) 0 := by
  rw [← rateByte_slices c, rateByte_and, rateByte_field]

theorem and_gainMask (c : Byte) : c &&& 0x03#8 = gainByte 0 (c.extractLsb' 0 2) := by
  rw [← gainByte_slices c, gainByte_and, gainByte_field]

/-- If a mask keeps one slice of a byte, its result fixes that slice. -/
theorem slice_of_and {w k : Nat} {c mask : Byte} {only : BitVec w → Byte} {x : BitVec w}
    (hand : c &&& mask = only (c.extractLsb' k w)) (hfield : ∀ y, (only y).extractLsb' k w = y)
    (h : c &&& mask = only x) : c.extractLsb' k w = x := by
  rw [← hfield x, ← h, hand, hfield]

theorem readyByte_of_and {c : Byte} {r : BitVec 1} (h : c &&& 0x80#8 = readyByte r 0) :
    readyByte r (c.extractLsb' 0 7) = c := by
  rw [← slice_of_and (and_readyMask c) (fun r => readyByte_field r 0) h, readyByte_slices]

theorem modeByte_of_and {c : Byte} {m : BitVec 1} (h : c &&& 0x10#8 = modeByte 0 m 0) :
    modeByte (c.extractLsb' 5 3) m (c.extractLsb' 0 4) = c := by
  rw [← slice_of_and (and_modeMask c) (fun m => modeByte_field 0 m 0) h, modeByte_slices]

theorem rateByte_of_and {c : Byte} {d : BitVec 2} (h : c &&& 0x0C#8 = rateByte 0 d 0) :
    rateByte (c.extractLsb' 4 4) d (c.extractLsb' 0 2) = c := by
  rw [← slice_of_and (and_rateMask c) (fun d => rateByte_field 0 d 0) h, rateByte_slices]

theorem gainByte_of_and {c : Byte} {g : BitVec 2} (h : c &&& 0x03#8 = gainByte 0 g) :
    gainByte (c.extractLsb' 2 6) g = c := by
  rw [← slice_of_and (and_gainMask c) (fun g => gainByte_field 0 g) h, gainByte_slices]

/-! Each row is decoded by its own mask and match, and its operation presents the matched byte again. -/

/-- The unit of a row reads a byte as `mk` when the row matches it, and `mk` forgets nothing of such a byte. -/
structure CaseRow.Reads (r : CaseRow) (mk : Byte → Instr) : Prop where
  decode_eq : ∀ ports, decode ⟨r.op, ports⟩ = onCase r.mask r.pattern ports mk
  encode_eq : ∀ c, c &&& r.mask = r.pattern → encode (mk c) = ⟨r.op, [.byte c]⟩

/-- A case row reads the byte it matches. -/
theorem onCase_of_and {mask pattern c : Byte} (f : Byte → Instr) (h : c &&& mask = pattern) :
    onCase mask pattern [.byte c] f = .ok (f c) := if_pos (beq_iff_eq.2 h)

theorem onCase_of_ne {mask pattern c : Byte} (f : Byte → Instr) (h : c &&& mask ≠ pattern) :
    onCase mask pattern [.byte c] f = .error .caseMismatch := if_neg (mt beq_iff_eq.1 h)

theorem onByte_eq_ok {ports : List PortVal} {f : Byte → Except DecodeError Instr} {i : Instr}
    (h : onByte ports f = .ok i) : ∃ c, ports = [.byte c] ∧ f c = .ok i := by
  unfold onByte at h
  split at h
  · exact ⟨_, rfl, h⟩
  · cases h

/-- What a case row reads is one byte, and one that it matches. -/
theorem onCase_eq_ok {mask pattern : Byte} {ports : List PortVal} {f : Byte → Instr} {i : Instr}
    (h : onCase mask pattern ports f = .ok i) : ∃ c, ports = [.byte c] ∧ c &&& mask = pattern ∧ f c = i := by
  obtain ⟨c, hports, hc⟩ := onByte_eq_ok h
  split at hc
  · next hmatch => exact ⟨c, hports, beq_iff_eq.1 hmatch, Except.ok.inj hc⟩
  · cases hc

namespace CaseRow.Reads

variable {r : CaseRow} {mk : Byte → Instr} (hr : r.Reads mk)
include hr

theorem decode_of_and {c : Byte} (h : c &&& r.mask = r.pattern) : decode ⟨r.op, [.byte c]⟩ = .ok (mk c) :=
  (hr.decode_eq _).trans (onCase_of_and mk h)

theorem decode_of_ne {c : Byte} (h : c &&& r.mask ≠ r.pattern) : decode ⟨r.op, [.byte c]⟩ = .error .caseMismatch :=
  (hr.decode_eq _).trans (onCase_of_ne mk h)

theorem encode_of_decode {ports : List PortVal} {i : Instr} (h : decode ⟨r.op, ports⟩ = .ok i) :
    encode i = ⟨r.op, ports⟩ := by
  obtain ⟨c, rfl, hand, rfl⟩ := onCase_eq_ok ((hr.decode_eq ports).symm.trans h)
  exact hr.encode_eq c hand

end CaseRow.Reads

/-- The request of a unit with one byte on its port. -/
def onUnit (op : Op) (c : Byte) : Request := ⟨op, [.byte c]⟩

theorem reads_drdyReady :
    CaseRow.Reads ⟨.drdyReady, 0x80, 0x00⟩ fun c => .drdyReady (c.extractLsb' 0 7) :=
  ⟨fun _ => rfl, fun _ h => congrArg (onUnit .drdyReady) (readyByte_of_and h)⟩

theorem reads_drdyNotReady :
    CaseRow.Reads ⟨.drdyNotReady, 0x80, 0x80⟩ fun c => .drdyNotReady (c.extractLsb' 0 7) :=
  ⟨fun _ => rfl, fun _ h => congrArg (onUnit .drdyNotReady) (readyByte_of_and h)⟩

theorem reads_modeContinuous :
    CaseRow.Reads ⟨.modeContinuous, 0x10, 0x00⟩ fun c => .modeContinuous (c.extractLsb' 5 3) (c.extractLsb' 0 4) :=
  ⟨fun _ => rfl, fun _ h => congrArg (onUnit .modeContinuous) (modeByte_of_and h)⟩

theorem reads_modeSingle :
    CaseRow.Reads ⟨.modeSingle, 0x10, 0x10⟩ fun c => .modeSingle (c.extractLsb' 5 3) (c.extractLsb' 0 4) :=
  ⟨fun _ => rfl, fun _ h => congrArg (onUnit .modeSingle) (modeByte_of_and h)⟩

theorem reads_rateSps15 :
    CaseRow.Reads ⟨.rateSps15, 0x0C, 0x00⟩ fun c => .rateSps15 (c.extractLsb' 4 4) (c.extractLsb' 0 2) :=
  ⟨fun _ => rfl, fun _ h => congrArg (onUnit .rateSps15) (rateByte_of_and h)⟩

theorem reads_rateSps30 :
    CaseRow.Reads ⟨.rateSps30, 0x0C, 0x04⟩ fun c => .rateSps30 (c.extractLsb' 4 4) (c.extractLsb' 0 2) :=
  ⟨fun _ => rfl, fun _ h => congrArg (onUnit .rateSps30) (rateByte_of_and h)⟩

theorem reads_rateSps60 :
    CaseRow.Reads ⟨.rateSps60, 0x0C, 0x08⟩ fun c => .rateSps60 (c.extractLsb' 4 4) (c.extractLsb' 0 2) :=
  ⟨fun _ => rfl, fun _ h => congrArg (onUnit .rateSps60) (rateByte_of_and h)⟩

theorem reads_rateSps240 :
    CaseRow.Reads ⟨.rateSps240, 0x0C, 0x0C⟩ fun c => .rateSps240 (c.extractLsb' 4 4) (c.extractLsb' 0 2) :=
  ⟨fun _ => rfl, fun _ h => congrArg (onUnit .rateSps240) (rateByte_of_and h)⟩

theorem reads_gainX1 :
    CaseRow.Reads ⟨.gainX1, 0x03, 0x00⟩ fun c => .gainX1 (c.extractLsb' 2 6) :=
  ⟨fun _ => rfl, fun _ h => congrArg (onUnit .gainX1) (gainByte_of_and h)⟩

theorem reads_gainX2 :
    CaseRow.Reads ⟨.gainX2, 0x03, 0x01⟩ fun c => .gainX2 (c.extractLsb' 2 6) :=
  ⟨fun _ => rfl, fun _ h => congrArg (onUnit .gainX2) (gainByte_of_and h)⟩

theorem reads_gainX4 :
    CaseRow.Reads ⟨.gainX4, 0x03, 0x02⟩ fun c => .gainX4 (c.extractLsb' 2 6) :=
  ⟨fun _ => rfl, fun _ h => congrArg (onUnit .gainX4) (gainByte_of_and h)⟩

theorem reads_gainUnknown :
    CaseRow.Reads ⟨.gainUnknown, 0x03, 0x03⟩ fun c => .gainUnknown (c.extractLsb' 2 6) :=
  ⟨fun _ => rfl, fun _ h => congrArg (onUnit .gainUnknown) (gainByte_of_and h)⟩

end Sys2Proof
end

section
/-! PROOF. The case rows against their field decoders (spec/30_encoding.md section 4, R73): one row of a field matches
any byte, and a row answers what the field decoder answers for the bytes it matches. -/

namespace Sys2Proof

open Machine

/-- Every case row of the table is read by its unit. -/
theorem exists_reads : ∀ r ∈ drdyRows ++ modeRows ++ rateRows ++ gainRows, ∃ mk, r.Reads mk := by
  intro r hr
  fin_cases hr
  · exact ⟨_, reads_drdyReady⟩
  · exact ⟨_, reads_drdyNotReady⟩
  · exact ⟨_, reads_modeContinuous⟩
  · exact ⟨_, reads_modeSingle⟩
  · exact ⟨_, reads_rateSps15⟩
  · exact ⟨_, reads_rateSps30⟩
  · exact ⟨_, reads_rateSps60⟩
  · exact ⟨_, reads_rateSps240⟩
  · exact ⟨_, reads_gainX1⟩
  · exact ⟨_, reads_gainX2⟩
  · exact ⟨_, reads_gainX4⟩
  · exact ⟨_, reads_gainUnknown⟩

/-- Of the rows of a field, those that match a byte: a question about the masked byte alone. -/
theorem filter_selects_eq {rows : List CaseRow} {mask c : Byte} (hmask : ∀ r ∈ rows, r.mask = mask) :
    rows.filter (fun r => r.selects c) = rows.filter (fun r => c &&& mask == r.pattern) := by
  apply List.filter_congr
  intro r hr
  rw [CaseRow.selects, hmask r hr]

theorem one_drdyRow (c : Byte) : (drdyRows.filter fun r => r.selects c).length = 1 := by
  rw [filter_selects_eq (mask := 0x80#8) (by decide), and_readyMask]
  generalize c.extractLsb' 7 1 = r
  revert r
  decide

theorem one_modeRow (c : Byte) : (modeRows.filter fun r => r.selects c).length = 1 := by
  rw [filter_selects_eq (mask := 0x10#8) (by decide), and_modeMask]
  generalize c.extractLsb' 4 1 = m
  revert m
  decide

theorem one_rateRow (c : Byte) : (rateRows.filter fun r => r.selects c).length = 1 := by
  rw [filter_selects_eq (mask := 0x0C#8) (by decide), and_rateMask]
  generalize c.extractLsb' 2 2 = d
  revert d
  decide

theorem one_gainRow (c : Byte) : (gainRows.filter fun r => r.selects c).length = 1 := by
  rw [filter_selects_eq (mask := 0x03#8) (by decide), and_gainMask]
  generalize c.extractLsb' 0 2 = g
  revert g
  decide

/-- Settles O27: the rows of a field list each value of it once, and each row is read by its own mask and match. -/
theorem oneCaseRowPerFieldMatches : Obligations.OneCaseRowPerFieldMatches := by
  intro c
  refine ⟨one_drdyRow c, one_modeRow c, one_rateRow c, one_gainRow c, fun r hr => ?_⟩
  obtain ⟨mk, hreads⟩ := exists_reads r hr
  refine ⟨fun hsel => ?_, fun hsel => ?_⟩
  · have hand : c &&& r.mask = r.pattern := beq_iff_eq.1 hsel
    exact ⟨mk c, hreads.decode_of_and hand, hreads.encode_eq c hand⟩
  · exact hreads.decode_of_ne (beq_eq_false_iff_ne.1 hsel)

/-! The field decoders on a byte put together around their field. -/

theorem exec_drdy_readyByte (s : State) (r : BitVec 1) (low : BitVec 7) :
    exec (.drdy (readyByte r low)) s = .next { s with result := .dataReady (!r.getLsbD 0) } := by
  rw [exec_drdy, dataReadyFlag_eq, getLsbD_of_slice (readyByte_field r low)]

theorem exec_mode_modeByte (s : State) (high : BitVec 3) (m : BitVec 1) (low : BitVec 4) :
    exec (.mode (modeByte high m low)) s = .next { s with result := .mode (modeOf (m.getLsbD 0)) } := by
  rw [exec_mode, modeBit_eq, getLsbD_of_slice (modeByte_field high m low)]

theorem exec_rate_rateByte (s : State) (high : BitVec 4) (d low : BitVec 2) :
    exec (.rate (rateByte high d low)) s = .next { s with result := .rate d.toNat (rateOf d.toNat) } := by
  rw [exec_rate, rateOrdinal_eq_toNat, rateByte_field]

theorem exec_gain_gainByte (s : State) (high : BitVec 6) (g : BitVec 2) :
    exec (.gain (gainByte high g)) s = .next { s with result := .gain g.toNat (gainOf g.toNat) } := by
  rw [exec_gain, gainOrdinal_eq_toNat, gainByte_field]

theorem exec_rsvd_gainByte (s : State) (high : BitVec 6) (g : BitVec 2) :
    exec (.rsvd (gainByte high g)) s = .next { s with result := .rsvd (g.toNat == 3) } := by
  rw [exec_rsvd, rsvdFlag, gainOrdinal_eq_toNat, gainByte_field]

/-- Settles O28: the byte of a row carries the row's own bit. -/
theorem drdyAndModeCaseRowsAgree : Obligations.DrdyAndModeCaseRowsAgree := by
  intro s low7 high3 low4
  exact ⟨⟨rfl, exec_drdy_readyByte s 0 low7⟩, ⟨rfl, exec_drdy_readyByte s 1 low7⟩,
    ⟨rfl, exec_mode_modeByte s high3 0 low4⟩, ⟨rfl, exec_mode_modeByte s high3 1 low4⟩⟩

/-- Settles O29: the byte of a row carries the row's own ordinal. -/
theorem rateCaseRowsAgree : Obligations.RateCaseRowsAgree := by
  intro s high low
  exact ⟨⟨rfl, exec_rate_rateByte s high 0 low⟩, ⟨rfl, exec_rate_rateByte s high 1 low⟩,
    ⟨rfl, exec_rate_rateByte s high 2 low⟩, ⟨rfl, exec_rate_rateByte s high 3 low⟩⟩

/-- Settles O30: the byte of a row carries the row's own ordinal, from which GAIN and RSVD read their results. -/
theorem gainCaseRowsAgree : Obligations.GainCaseRowsAgree := by
  intro s high
  exact ⟨⟨rfl, exec_gain_gainByte s high 0, exec_rsvd_gainByte s high 0⟩,
    ⟨rfl, exec_gain_gainByte s high 1, exec_rsvd_gainByte s high 1⟩,
    ⟨rfl, exec_gain_gainByte s high 2, exec_rsvd_gainByte s high 2⟩,
    ⟨rfl, exec_gain_gainByte s high 3, exec_rsvd_gainByte s high 3⟩⟩

end Sys2Proof
end

section
/-! PROOF. Requests (spec/30_encoding.md sections 1 to 4): presenting an operand on its port and reading it back are
inverse to each other, kind by kind, but for the gain codes 3, 5 and 6, which are read as Unknown (D9). -/

namespace Sys2Proof

open Machine

/-! From an operand to its port and back. -/

theorem bufOfPort_portOfBuf {b : BufArg} {off len : Nat} (h : b.holds off len = true) :
    bufOfPort (portOfBuf b) = .ok b := by
  cases b with
  | lit cells =>
    cases cells with
    | nil => cases h
    | cons b cs => rfl
  | caller k => rfl

theorem dataReadyOfPort_dataReadyPort (b : Bool) : dataReadyOfPort (dataReadyPort b) = .ok b := by
  cases b <;> rfl

theorem modeOfPort_modePort (m : Mode) : modeOfPort (modePort m) = .ok m := by
  cases m <;> rfl

theorem rateOfPort_rateOrd (d : DataRate) : rateOfPort (rateOrd d) = .ok d := by
  cases d <;> rfl

theorem gainOfPort_gainCode (g : GainAmp) : gainOfPort (gainCode g) = .ok g := by
  cases g <;> rfl

theorem bind_eq_ok_iff {ε α β : Type} {x : Except ε α} {f : α → Except ε β} {b : β} :
    x >>= f = .ok b ↔ ∃ a, x = .ok a ∧ f a = .ok b := by
  cases x with
  | error e => exact ⟨nofun, nofun⟩
  | ok a => exact ⟨fun h => ⟨a, rfl, h⟩, fun ⟨_, ha, hf⟩ => Except.ok.inj ha ▸ hf⟩

/-- ENCODE's four ports carry a Configuration exactly when each carries its field. -/
theorem cfgOfPorts_eq_ok_iff {ready mode rate gain : Nat} {cfg : Configuration} :
    cfgOfPorts ready mode rate gain = .ok cfg ↔
      dataReadyOfPort ready = .ok cfg.dataReady ∧ modeOfPort mode = .ok cfg.mode ∧ rateOfPort rate = .ok cfg.dataRate ∧
        gainOfPort gain = .ok cfg.gainAmp := by
  simp only [cfgOfPorts, bind_eq_ok_iff, Except.ok.injEq]
  constructor
  · rintro ⟨r, hr, m, hm, d, hd, g, hg, rfl⟩
    exact ⟨hr, hm, hd, hg⟩
  · rintro ⟨hr, hm, hd, hg⟩
    exact ⟨_, hr, _, hm, _, hd, _, hg, rfl⟩

/-- Presenting the matched byte of a row and reading it gives the row's operation back. -/
theorem CaseRow.Reads.decode_encode {r : CaseRow} {mk : Byte → Instr} (hr : r.Reads mk) {c : Byte}
    (h : c &&& r.mask = r.pattern) {i : Instr} (hi : mk c = i) : decode (encode i) = .ok i := by
  subst hi
  rw [hr.encode_eq c h, hr.decode_of_and h]

/-- Settles O46: each kind of operand is read back from its port; a case row's byte carries the row's field and,
beside it, the operand. -/
theorem decodeOfEncode : Obligations.DecodeOfEncode := by
  intro i hwf
  cases i with
  | extract buf off len =>
    have hbuf := bufOfPort_portOfBuf (Bool.and_eq_true_iff.1 hwf).2
    exact congrArg (Except.map fun b => Instr.extract b off len) hbuf
  | pack v buf off len =>
    have hbuf := bufOfPort_portOfBuf (Bool.and_eq_true_iff.1 hwf).2
    exact congrArg (Except.map fun b => Instr.pack v b off len) hbuf
  | encode cfg =>
    have hcfg : cfgOfPorts (dataReadyPort cfg.dataReady) (modePort cfg.mode) (rateOrd cfg.dataRate)
        (gainCode cfg.gainAmp) = .ok cfg :=
      cfgOfPorts_eq_ok_iff.2 ⟨dataReadyOfPort_dataReadyPort _, modeOfPort_modePort _, rateOfPort_rateOrd _,
        gainOfPort_gainCode _⟩
    exact congrArg (Except.map Instr.encode) hcfg
  | drdyReady low =>
    exact reads_drdyReady.decode_encode (readyByte_and 0 low) (congrArg _ (readyByte_low 0 low))
  | drdyNotReady low =>
    exact reads_drdyNotReady.decode_encode (readyByte_and 1 low) (congrArg _ (readyByte_low 1 low))
  | modeContinuous high low =>
    exact reads_modeContinuous.decode_encode (modeByte_and high 0 low)
      (congrArg₂ _ (modeByte_high high 0 low) (modeByte_low high 0 low))
  | modeSingle high low =>
    exact reads_modeSingle.decode_encode (modeByte_and high 1 low)
      (congrArg₂ _ (modeByte_high high 1 low) (modeByte_low high 1 low))
  | rateSps15 high low =>
    exact reads_rateSps15.decode_encode (rateByte_and high 0 low)
      (congrArg₂ _ (rateByte_high high 0 low) (rateByte_low high 0 low))
  | rateSps30 high low =>
    exact reads_rateSps30.decode_encode (rateByte_and high 1 low)
      (congrArg₂ _ (rateByte_high high 1 low) (rateByte_low high 1 low))
  | rateSps60 high low =>
    exact reads_rateSps60.decode_encode (rateByte_and high 2 low)
      (congrArg₂ _ (rateByte_high high 2 low) (rateByte_low high 2 low))
  | rateSps240 high low =>
    exact reads_rateSps240.decode_encode (rateByte_and high 3 low)
      (congrArg₂ _ (rateByte_high high 3 low) (rateByte_low high 3 low))
  | gainX1 high => exact reads_gainX1.decode_encode (gainByte_and high 0) (congrArg _ (gainByte_high high 0))
  | gainX2 high => exact reads_gainX2.decode_encode (gainByte_and high 1) (congrArg _ (gainByte_high high 1))
  | gainX4 high => exact reads_gainX4.decode_encode (gainByte_and high 2) (congrArg _ (gainByte_high high 2))
  | gainUnknown high => exact reads_gainUnknown.decode_encode (gainByte_and high 3) (congrArg _ (gainByte_high high 3))
  | _ => rfl

/-! From a port to its operand and back. -/

theorem map_eq_ok {ε α β : Type} {x : Except ε α} {f : α → β} {b : β} (h : x.map f = .ok b) :
    ∃ a, x = .ok a ∧ f a = b := by
  cases x with
  | error e => cases h
  | ok a => exact ⟨a, rfl, Except.ok.inj h⟩

theorem portOfBuf_of_bufOfPort {p : PortVal} {b : BufArg} (h : bufOfPort p = .ok b) : portOfBuf b = p := by
  unfold bufOfPort at h
  split at h <;> cases h <;> rfl

theorem dataReadyPort_of_dataReadyOfPort {n : Nat} {b : Bool} (h : dataReadyOfPort n = .ok b) :
    dataReadyPort b = n := by
  unfold dataReadyOfPort at h
  split at h <;> cases h <;> rfl

theorem modePort_of_modeOfPort {n : Nat} {m : Mode} (h : modeOfPort n = .ok m) : modePort m = n := by
  unfold modeOfPort at h
  split at h <;> cases h <;> rfl

theorem rateOrd_of_rateOfPort {n : Nat} {d : DataRate} (h : rateOfPort n = .ok d) : rateOrd d = n := by
  unfold rateOfPort at h
  split at h <;> cases h <;> rfl

/-- The gain port's codes are one to one, but for the unused ones, which are read as Unknown (D9). -/
theorem gainCode_of_gainOfPort {n : Nat} {g : GainAmp} (h : gainOfPort n = .ok g) :
    gainCode g = n ∨ (n = 3 ∨ n = 5 ∨ n = 6) ∧ gainCode g = 7 := by
  unfold gainOfPort at h
  split at h <;> cases h <;> decide

theorem onNone_eq_ok {ports : List PortVal} {i j : Instr} (h : onNone ports j = .ok i) : ports = [] ∧ i = j := by
  unfold onNone at h
  split at h
  · exact ⟨rfl, (Except.ok.inj h).symm⟩
  · cases h

/-- A unit with the one operand `config_byte` presents the byte it read. -/
theorem encode_of_onByte {op : Op} {mk : Byte → Instr} (hmk : ∀ c, encode (mk c) = ⟨op, [.byte c]⟩)
    {ports : List PortVal} {i : Instr} (h : onByte ports (fun c => .ok (mk c)) = .ok i) : encode i = ⟨op, ports⟩ := by
  obtain ⟨c, rfl, hc⟩ := onByte_eq_ok h
  rw [← Except.ok.inj hc, hmk]

/-- A unit with no operand port presents none. -/
theorem encode_of_onNone {op : Op} {j : Instr} (hj : encode j = ⟨op, []⟩) {ports : List PortVal} {i : Instr}
    (h : onNone ports j = .ok i) : encode i = ⟨op, ports⟩ := by
  obtain ⟨rfl, rfl⟩ := onNone_eq_ok h
  exact hj

/-- ENCODE presents the codes it read, but for an unused gain code, in whose place it presents 7. -/
theorem encode_of_decode_encode {ports : List PortVal} {i : Instr} (h : decode ⟨.encode, ports⟩ = .ok i) :
    encode i = ⟨.encode, ports⟩ ∨
    ∃ a b c g, (⟨.encode, ports⟩ : Request) = ⟨.encode, [.nat a, .nat b, .nat c, .nat g]⟩ ∧ (g = 3 ∨ g = 5 ∨ g = 6) ∧
      encode i = ⟨.encode, [.nat a, .nat b, .nat c, .nat 7]⟩ := by
  simp only [decode] at h
  split at h
  · next ready mode rate gain =>
    obtain ⟨cfg, hcfg, rfl⟩ := map_eq_ok h
    obtain ⟨hready, hmode, hrate, hgain⟩ := cfgOfPorts_eq_ok_iff.1 hcfg
    simp only [encode, portsOfCfg, dataReadyPort_of_dataReadyOfPort hready, modePort_of_modeOfPort hmode,
      rateOrd_of_rateOfPort hrate]
    obtain hcode | ⟨hunused, hcode⟩ := gainCode_of_gainOfPort hgain
    · exact .inl (by rw [hcode])
    · exact .inr ⟨ready, mode, rate, gain, rfl, hunused, by rw [hcode]⟩
  · cases h

/-- Every unit but ENCODE's presents exactly what it read. -/
theorem encode_of_decode {op : Op} {ports : List PortVal} {i : Instr} (hop : op ≠ .encode)
    (h : decode ⟨op, ports⟩ = .ok i) : encode i = ⟨op, ports⟩ := by
  cases op with
  | extract =>
    simp only [decode] at h
    split at h
    · obtain ⟨b, hb, rfl⟩ := map_eq_ok h
      rw [encode, portOfBuf_of_bufOfPort hb]
    · cases h
  | pack =>
    simp only [decode] at h
    split at h
    · obtain ⟨b, hb, rfl⟩ := map_eq_ok h
      rw [encode, portOfBuf_of_bufOfPort hb]
    · cases h
  | extractField =>
    simp only [decode] at h
    split at h <;> cases h
    rfl
  | packField =>
    simp only [decode] at h
    split at h <;> cases h
    rfl
  | scale =>
    simp only [decode] at h
    split at h <;> cases h
    rfl
  | gainMap =>
    simp only [decode] at h
    split at h <;> cases h
    rfl
  | decode =>
    simp only [decode] at h
    split at h <;> cases h
    rfl
  | drdy => exact encode_of_onByte (mk := .drdy) (fun _ => rfl) h
  | mode => exact encode_of_onByte (mk := .mode) (fun _ => rfl) h
  | rate => exact encode_of_onByte (mk := .rate) (fun _ => rfl) h
  | gain => exact encode_of_onByte (mk := .gain) (fun _ => rfl) h
  | rsvd => exact encode_of_onByte (mk := .rsvd) (fun _ => rfl) h
  | encode => exact absurd rfl hop
  | init => exact encode_of_onNone rfl h
  | readTxn => exact encode_of_onNone rfl h
  | read => exact encode_of_onNone rfl h
  | drdyReady => exact reads_drdyReady.encode_of_decode h
  | drdyNotReady => exact reads_drdyNotReady.encode_of_decode h
  | modeContinuous => exact reads_modeContinuous.encode_of_decode h
  | modeSingle => exact reads_modeSingle.encode_of_decode h
  | rateSps15 => exact reads_rateSps15.encode_of_decode h
  | rateSps30 => exact reads_rateSps30.encode_of_decode h
  | rateSps60 => exact reads_rateSps60.encode_of_decode h
  | rateSps240 => exact reads_rateSps240.encode_of_decode h
  | gainX1 => exact reads_gainX1.encode_of_decode h
  | gainX2 => exact reads_gainX2.encode_of_decode h
  | gainX4 => exact reads_gainX4.encode_of_decode h
  | gainUnknown => exact reads_gainUnknown.encode_of_decode h

/-- Settles O47: only ENCODE's gain port has two codes for one operand. -/
theorem encodeOfDecode : Obligations.EncodeOfDecode := by
  rintro ⟨op, ports⟩ i h
  by_cases hop : op = .encode
  · subst hop
    exact encode_of_decode_encode h
  · exact .inl (encode_of_decode hop h)

/-! ENCODE's port codes as words (R70). -/

theorem dataReadyOfPort_toNat (ready : BitVec 1) : dataReadyOfPort ready.toNat = .ok (ready.getLsbD 0) := by
  revert ready
  decide

theorem modeOfPort_toNat (m : BitVec 1) : modeOfPort m.toNat = .ok (modeOf (m.getLsbD 0)) := by
  revert m
  decide

theorem rateOfPort_toNat (d : BitVec 2) : rateOfPort d.toNat = .ok (rateOf d.toNat) := by
  revert d
  decide

/-- The port's reading of a gain code is the mapper's: the unused codes are Unknown (D9). -/
theorem gainOfPort_toNat (g : BitVec 3) : gainOfPort g.toNat = .ok (gainOf g.toNat) := by
  revert g
  decide

/-- The Configuration on ENCODE's input ports. -/
def cfgOfCodes (ready m : BitVec 1) (d : BitVec 2) (g : BitVec 3) : Configuration :=
  ⟨ready.getLsbD 0, modeOf (m.getLsbD 0), rateOf d.toNat, gainOf g.toNat⟩

theorem decode_encode_codes (ready m : BitVec 1) (d : BitVec 2) (g : BitVec 3) :
    decode ⟨.encode, [.nat ready.toNat, .nat m.toNat, .nat d.toNat, .nat g.toNat]⟩ =
      .ok (.encode (cfgOfCodes ready m d g)) := by
  have hcfg : cfgOfPorts ready.toNat m.toNat d.toNat g.toNat = .ok (cfgOfCodes ready m d g) :=
    cfgOfPorts_eq_ok_iff.2 ⟨dataReadyOfPort_toNat ready, modeOfPort_toNat m, rateOfPort_toNat d, gainOfPort_toNat g⟩
  exact congrArg (Except.map Instr.encode) hcfg

/-- The codes 0, 1 and 2 are the encodable gains, and their value is their low two bits. -/
theorem encodable_gainOf_toNat {g : BitVec 3} (h : g ≤ 2#3) :
    gainValue (gainOf g.toNat) = some (g.extractLsb' 0 2).toNat ∧ gainOf g.toNat ≠ .x8 ∧ gainOf g.toNat ≠ .unknown := by
  revert g
  decide

theorem refused_gainOf_toNat {g : BitVec 3} (h : ¬g ≤ 2#3) : gainOf g.toNat = .x8 ∨ gainOf g.toNat = .unknown := by
  revert g
  decide

/-- The byte's fields are the words on the ports, the ready bit negated (D22). -/
theorem encodedByte_cfgOfCodes (ready m : BitVec 1) (d : BitVec 2) (g : BitVec 3) (v : BitVec 2) :
    encodedByte (cfgOfCodes ready m d g) v = ~~~ready ++ 0#2 ++ m ++ d ++ v := by
  have hready : BitVec.ofBool (!ready.getLsbD 0) = ~~~ready := by
    revert ready
    decide
  have hmode : BitVec.ofNat 1 (modePort (modeOf (m.getLsbD 0))) = m := by
    revert m
    decide
  have hrate : BitVec.ofNat 2 (rateOrd (rateOf d.toNat)) = d := by
    rw [rateOrd_rateOf d.isLt, BitVec.ofNat_toNat, BitVec.setWidth_eq]
  simp only [encodedByte, cfgOfCodes, hready, hmode, hrate, configByte]

/-- ENCODE's answer to the words on its ports. -/
theorem encodeConfig_cfgOfCodes (ready m : BitVec 1) (d : BitVec 2) (g : BitVec 3) :
    encodeConfig Config.encTruncatesX8 (cfgOfCodes ready m d g) =
      if g ≤ 2#3 then some (~~~ready ++ 0#2 ++ m ++ d ++ g.extractLsb' 0 2) else none := by
  split
  · next hg =>
    obtain ⟨hvalue, hx8, hunknown⟩ := encodable_gainOf_toNat hg
    rw [encodeConfig_of_gainBits hvalue hx8 hunknown, encodedByte_cfgOfCodes]
  · next hg => exact encodeConfig_of_refused (refused_gainOf_toNat hg)

theorem ports_encoded (b : Option Byte) : (Result.encoded b).ports =
    { Result.idle.ports with encByte := b, encOk := some (bitPort b.isSome) } := rfl

/-- Settles O51: the words on the ports are a Configuration, and its byte is the words' own. -/
theorem encodeDrivesThePorts : Obligations.EncodeDrivesThePorts := by
  intro s ready m d g
  refine ⟨cfgOfCodes ready m d g, _, decode_encode_codes ready m d g, exec_encode s _, ?_⟩
  rw [encodeConfig_cfgOfCodes, ports_encoded]
  by_cases hg : g ≤ 2#3
  · simp only [if_pos hg, decide_eq_true hg]
    exact ⟨fun _ => ⟨rfl, rfl⟩, fun hgt => absurd hg (BitVec.not_le.2 hgt), rfl⟩
  · simp only [if_neg hg, decide_eq_false hg]
    exact ⟨fun hle => absurd hle hg, fun _ => ⟨rfl, rfl⟩, rfl⟩

/-- Settles O48: each sample is read port by port; the last one is the frame of a table word. -/
theorem sampleRequestsDecode : Obligations.SampleRequestsDecode :=
  ⟨rfl, rfl, by decide, by decide, by decide, by decide⟩

end Sys2Proof
end

section
/-! PROOF. What an operation can do, said once (spec/10_state.md R20, R166): it returns a result in the range its rule
gives it, from a state in which only PACK's buffer or the transport's side has changed. A step adds that the first
waiting request is taken off. The invariant, and what a step leaves alone, follow. -/

namespace Sys2Proof.Machine

/-- The state an operation returns from: its whole effect but the result. PACK has put the new cells in place, the three
operations of the transport have made their call, and every other operation works on its operands alone. -/
def State.effectOf (s : State) : Instr → State
  | .pack value buf off len => s.putCells buf (packBits value (s.cells buf) off len)
  | .init => s.callInit.2
  | .readTxn => s.callTxn.2
  | .read => s.callTxn.2
  | _ => s

/-- PACK on a buffer of the caller is the only operation that writes to the caller's buffers. -/
theorem State.effectOf_bufs (s : State) {i : Instr} (h : ∀ value k off len, i ≠ .pack value (.caller k) off len) :
    (s.effectOf i).bufs = s.bufs := by
  cases i with
  | pack value buf off len =>
    cases buf with
    | lit c => rfl
    | caller k => exact absurd rfl (h value k off len)
  | init => exact State.callInit_bufs s
  | readTxn => exact State.callTxn_bufs s
  | read => exact State.callTxn_bufs s
  | _ => rfl

/-- Every operation keeps the canonical form of the caller's buffers. -/
theorem State.wf_effectOf_bufs {s : State} (i : Instr) (h : Memory.wf s.bufs = true) :
    Memory.wf (s.effectOf i).bufs = true := by
  by_cases hpack : ∃ value k off len, i = .pack value (.caller k) off len
  · obtain ⟨value, k, off, len, rfl⟩ := hpack
    exact State.putCells_wf s _ _ h
  · rwa [State.effectOf_bufs s fun value k off len hi => hpack ⟨value, k, off, len, hi⟩]

/-- No operation touches the device handle's address (R29). -/
@[simp] theorem State.effectOf_addr (s : State) (i : Instr) : (s.effectOf i).addr = s.addr := by
  cases i with
  | pack value buf off len => exact State.putCells_addr s buf _
  | init => exact State.callInit_addr s
  | readTxn => exact State.callTxn_addr s
  | read => exact State.callTxn_addr s
  | _ => rfl

@[simp] theorem State.effectOf_pending (s : State) (i : Instr) : (s.effectOf i).pending = s.pending := by
  cases i with
  | pack value buf off len => exact State.putCells_pending s buf _
  | init => exact State.callInit_pending s
  | readTxn => exact State.callTxn_pending s
  | read => exact State.callTxn_pending s
  | _ => rfl

/-- A codec operation that completes was in contract. -/
theorem contract_of_withField_eq_next {cells : Cells} {off len : Nat} {op : Out} {t : State}
    (h : withField cells off len op = .next t) : 1 ≤ len ∧ len ≤ 32 ∧ off + len ≤ cells.length := by
  obtain ⟨h1, h2, h3, -⟩ | ⟨-, e⟩ | ⟨-, -, -, e⟩ := withField_eq cells off len op
  · exact ⟨h1, h2, h3⟩
  · cases e.symm.trans h
  · cases e.symm.trans h

/-- An operation on a field of a byte that completes was in range. -/
theorem range_of_withinByte_eq_next {startBit width : Nat} {op : Out} {t : State}
    (h : withinByte startBit width op = .next t) : 1 ≤ width ∧ startBit + width ≤ 8 := by
  obtain ⟨h1, h2, -⟩ | ⟨-, e⟩ := withinByte_eq startBit width op
  · exact ⟨h1, h2⟩
  · cases e.symm.trans h

theorem eq_returns_of_eq_next {s t : State} {r : Result} (h : (.next (s.returns r) : Out) = .next t) :
    t = s.returns r := by
  cases h
  rfl

/-- A field of a byte is a byte's number. -/
theorem fieldOfByte_lt (c : Byte) (startBit width : Nat) : fieldOfByte c startBit width < 256 := by
  have hshift : c.toNat >>> startBit ≤ c.toNat := by
    rw [Nat.shiftRight_eq_div_pow]
    exact Nat.div_le_self _ _
  exact Nat.lt_of_le_of_lt (Nat.and_le_left.trans hshift) c.isLt

theorem Reading.ok_scaleOf (high low : Byte) : Reading.ok (scaleOf high low) = true :=
  decide_eq_true (sixteenths_scaleOf_le high low)

/-- The record of a frame lies in its range: X8 is out of the decoder's reach, and the flag reports Unknown (R125). -/
theorem Decoded.ok_decodeFrame (high low c : Byte) : Decoded.ok (decodeFrame high low c) = true := by
  have hgain : decide ((configOf c).gainAmp ≠ .x8) = true := decide_eq_true (gainOf_ne_x8 (gainOrdinal_lt c))
  have hrsvd : (rsvdFlag c == decide ((configOf c).gainAmp = .unknown)) = true := beq_iff_eq.2 (rsvdFlag_eq_decide c)
  exact Bool.and_eq_true_iff.2 ⟨Bool.and_eq_true_iff.2 ⟨Reading.ok_scaleOf high low, hgain⟩, hrsvd⟩

theorem Result.ok_rate (c : Byte) : Result.ok (.rate (rateOrdinal c) (rateOf (rateOrdinal c))) = true :=
  Bool.and_eq_true_iff.2 ⟨decide_eq_true (rateOrdinal_lt c), decide_eq_true rfl⟩

theorem Result.ok_gain (c : Byte) : Result.ok (.gain (gainOrdinal c) (gainOf (gainOrdinal c))) = true :=
  Bool.and_eq_true_iff.2 ⟨Bool.and_eq_true_iff.2 ⟨decide_eq_true (gainOrdinal_lt c), decide_eq_true rfl⟩,
    decide_eq_true (gainOf_ne_x8 (gainOrdinal_lt c))⟩

/-- In contract EXTRACT's value fits 32 bits. -/
theorem Result.ok_value (buf : Cells) (off : Nat) {len : Nat} (h : len ≤ 32) :
    Result.ok (.value (extractBits buf off len)) = true :=
  decide_eq_true ((extractBits_lt buf off len).trans_le (Nat.pow_le_pow_right (by decide) h))

/-- In contract PACK's buffer has a cell. -/
theorem Result.ok_buffer (value : Nat) {buf : Cells} {off len : Nat} (h1 : 1 ≤ len) (hN : off + len ≤ buf.length) :
    Result.ok (.buffer (packBits value buf off len)) = true := by
  have hne := packBits_ne_nil value h1 hN
  rw [← List.isEmpty_eq_false_iff] at hne
  rw [Result.ok, hne]
  rfl

/-- The bits 6 and 5 of a byte ENCODE gives are 0 (D20). -/
theorem encodedByte_and_0x60 (cfg : Configuration) (g : BitVec 2) : encodedByte cfg g &&& 0x60#8 = 0#8 := by
  rw [← encodedByte_and_0x9F, BitVec.and_assoc]
  exact BitVec.and_zero

theorem Result.ok_encoded (cfg : Configuration) :
    Result.ok (.encoded (encodeConfig Config.encTruncatesX8 cfg)) = true := by
  obtain ⟨g, -, -, hunknown, he⟩ | ⟨-, he⟩ := encodeConfig_cases cfg
  · have hlow : encodedByte cfg g &&& 0x03#8 ≠ 0x03#8 := by
      rwa [ne_eq, and_0x03_eq_iff, configOf_of_encodeConfig_eq_some he]
    rw [he]
    exact Bool.and_eq_true_iff.2 ⟨decide_eq_true (encodedByte_and_0x60 cfg g), decide_eq_true hlow⟩
  · rw [he]
    rfl

theorem Result.ok_read (a : TxnAnswer) : Result.ok (.read (readResult a)) = true := by
  obtain ⟨high, low, config, -, hread⟩ | ⟨-, hread⟩ := readResult_cases a
  · rw [hread]
    exact Decoded.ok_decodeFrame high low config
  · rw [hread]
    rfl

/-- Everything an operation that completes can do: its effect, and a result in its range. -/
theorem exec_eq_next {i : Instr} {s t : State} (h : exec i s = .next t) :
    ∃ r, Result.ok r = true ∧ t = (s.effectOf i).returns r := by
  cases i with
  | extract buf off len =>
    obtain ⟨-, h2, -⟩ := contract_of_withField_eq_next h
    exact ⟨_, Result.ok_value _ off h2, eq_returns_of_eq_next (eq_next_of_withField_eq_next h)⟩
  | pack value buf off len =>
    obtain ⟨h1, -, hN⟩ := contract_of_withField_eq_next h
    exact ⟨_, Result.ok_buffer value h1 hN, eq_returns_of_eq_next (eq_next_of_withField_eq_next h)⟩
  | extractField c startBit width =>
    exact ⟨.field _, decide_eq_true (fieldOfByte_lt c startBit width),
      eq_returns_of_eq_next (eq_next_of_withinByte_eq_next h)⟩
  | packField value startBit width => exact ⟨_, rfl, eq_returns_of_eq_next (eq_next_of_withinByte_eq_next h)⟩
  | scale high low => exact ⟨.reading _, Reading.ok_scaleOf high low, eq_returns_of_eq_next h⟩
  | rate c => exact ⟨_, Result.ok_rate c, eq_returns_of_eq_next h⟩
  | gain c => exact ⟨_, Result.ok_gain c, eq_returns_of_eq_next h⟩
  | decode high low c => exact ⟨.decoded _, Decoded.ok_decodeFrame high low c, eq_returns_of_eq_next h⟩
  | encode cfg => exact ⟨_, Result.ok_encoded cfg, eq_returns_of_eq_next h⟩
  | read => exact ⟨_, Result.ok_read _, eq_returns_of_eq_next h⟩
  | _ => exact ⟨_, rfl, eq_returns_of_eq_next h⟩

theorem exec_keeps_inv {i : Instr} {s t : State} (hwf : Memory.wf s.bufs = true) (h : exec i s = .next t) : t.Inv := by
  obtain ⟨r, hr, rfl⟩ := exec_eq_next h
  exact ⟨State.wf_effectOf_bufs i hwf, hr⟩

/-- Everything a step that completes can do: nothing with no request waiting, else the first request's operation. -/
theorem step_eq_next {s t : State} (h : step s = .next t) :
    (s.pending = [] ∧ t = s) ∨
    ∃ q rest i, s.pending = q :: rest ∧ decode q = .ok i ∧ exec i { s with pending := rest } = .next t := by
  unfold step at h
  split at h
  · next hpending =>
    cases h
    exact .inl ⟨hpending, rfl⟩
  · next q rest hpending =>
    split at h
    · next i hdecode => exact .inr ⟨q, rest, i, hpending, hdecode, h⟩
    · cases h

/-- Settles O45: an idle step keeps the state, and an operation keeps the canonical form and returns a result in
range. -/
theorem stepKeepsTheInvariant : Obligations.StepKeepsTheInvariant := by
  intro s t hinv h
  obtain ⟨-, rfl⟩ | ⟨q, rest, i, -, -, hexec⟩ := step_eq_next h
  · exact hinv
  · exact exec_keeps_inv (s := { s with pending := rest }) hinv.1 hexec

/-- Settles O44: at reset no buffer is listed and nothing has been returned. -/
theorem resetMeetsTheInvariant : Obligations.ResetMeetsTheInvariant := ⟨rfl, rfl⟩

/-- Settles O43: no operation touches the address or the requests still waiting. -/
theorem stepKeepsAddressAndOrder : Obligations.StepKeepsAddressAndOrder := by
  intro s t h
  obtain ⟨hpending, rfl⟩ | ⟨q, rest, i, hpending, -, hexec⟩ := step_eq_next h
  · rw [hpending]
    exact ⟨rfl, rfl⟩
  · obtain ⟨r, -, rfl⟩ := exec_eq_next hexec
    rw [State.returns_addr, State.effectOf_addr, State.returns_pending, State.effectOf_pending, hpending]
    exact ⟨rfl, rfl⟩

/-- Settles O42: the step's three branches. -/
theorem stepRunsTheNextInvocation : Obligations.StepRunsTheNextInvocation := by
  intro s
  refine ⟨fun hpending => ?_, fun q rest i hpending hdecode => ?_, fun q rest e hpending hdecode => ?_⟩
  · simp only [step, hpending]
  · simp only [step, hpending, hdecode]
  · simp only [step, hpending, hdecode]

/-- PACK on a buffer of the caller leaves the new cells there, with the old length. -/
theorem length_get_set_packBits (m : Memory) (value k : Nat) {off len : Nat} (h1 : 1 ≤ len)
    (hN : off + len ≤ (Memory.get m k).length) (j : Nat) :
    (Memory.get (Memory.set m k (packBits value (Memory.get m k) off len)) j).length = (Memory.get m j).length := by
  by_cases hjk : j = k
  · rw [hjk, Memory.get_set_packBits m value k h1 hN, length_packBits]
  · rw [Memory.get_set_other _ _ _ _ hjk]

/-- Settles O40: PACK's own buffer keeps its length and the others are out of its reach; every other operation keeps the
whole list. -/
theorem onlyPackChangesItsBuffer : Obligations.OnlyPackChangesItsBuffer := by
  intro i s t h
  by_cases hpack : ∃ value k off len, i = .pack value (.caller k) off len
  · obtain ⟨value, k, off, len, rfl⟩ := hpack
    obtain ⟨h1, -, hN⟩ := contract_of_withField_eq_next h
    obtain ⟨r, -, rfl⟩ := exec_eq_next h
    refine ⟨fun hno => absurd rfl (hno value k off len), fun value' k' off' len' hi j hj => ?_, fun j => ?_⟩
    · cases hi
      exact Memory.get_set_other _ _ _ _ hj
    · exact length_get_set_packBits s.bufs value k h1 hN j
  · have hno : ∀ value k off len, i ≠ .pack value (.caller k) off len :=
      fun value k off len hi => hpack ⟨value, k, off, len, hi⟩
    obtain ⟨r, -, rfl⟩ := exec_eq_next h
    have hbufs : ((s.effectOf i).returns r).bufs = s.bufs := State.effectOf_bufs s hno
    rw [hbufs]
    exact ⟨fun _ => rfl, fun value k off len hi => absurd hi (hno value k off len), fun _ => rfl⟩

/-- A codec operation answers a next state exactly in contract. -/
theorem withField_next_iff {cells : Cells} {off len : Nat} (t : State) :
    (∃ u, withField cells off len (.next t) = .next u) ↔ 1 ≤ len ∧ len ≤ 32 ∧ off + len ≤ cells.length :=
  ⟨fun ⟨_, h⟩ => contract_of_withField_eq_next h,
    fun ⟨h1, h2, hN⟩ => ⟨t, withField_of_contract cells off len _ h1 h2 hN⟩⟩

/-- An operation on a field of a byte answers a next state exactly in range. -/
theorem withinByte_next_iff {startBit width : Nat} (t : State) :
    (∃ u, withinByte startBit width (.next t) = .next u) ↔ 1 ≤ width ∧ startBit + width ≤ 8 :=
  ⟨fun ⟨_, h⟩ => range_of_withinByte_eq_next h, fun h => ⟨t, if_pos ((fieldOk_iff startBit width).2 h)⟩⟩

/-- Settles O41: the four operations with a contract run exactly in it, and every other one always runs. -/
theorem everyOperationRunsInContract : Obligations.EveryOperationRunsInContract := by
  intro i s
  cases i with
  | extract buf off len =>
    refine (withField_next_iff _).trans ⟨fun h => ⟨fun b off' len' hi => ?_, nofun, nofun, nofun⟩,
      fun ⟨h, _⟩ => h _ _ _ rfl⟩
    cases hi
    exact h
  | pack value buf off len =>
    refine (withField_next_iff _).trans ⟨fun h => ⟨nofun, fun v b off' len' hi => ?_, nofun, nofun⟩,
      fun ⟨_, h, _⟩ => h _ _ _ _ rfl⟩
    cases hi
    exact h
  | extractField c startBit width =>
    refine (withinByte_next_iff _).trans ⟨fun h => ⟨nofun, nofun, fun c' b w hi => ?_, nofun⟩,
      fun ⟨_, _, h, _⟩ => h _ _ _ rfl⟩
    cases hi
    exact h
  | packField value startBit width =>
    refine (withinByte_next_iff _).trans ⟨fun h => ⟨nofun, nofun, nofun, fun v b w hi => ?_⟩,
      fun ⟨_, _, _, h⟩ => h _ _ _ rfl⟩
    cases hi
    exact h
  | _ => exact ⟨fun _ => ⟨nofun, nofun, nofun, nofun⟩, fun _ => ⟨_, rfl⟩⟩

end Sys2Proof.Machine
end
